-- ==== Sys2Proof/Word.lean ====
section
/-! DEFINITION. The word types of the machine: the byte, the 16-bit word and the number of a V register. -/

namespace Sys2Proof

/-- A memory byte, a V register, a timer (spec R7: the byte is 8 bits). All values are unsigned (R8). -/
abbrev Byte := BitVec 8

/-- The 16-bit word of `I`, `pc`, a stack slot, the `opcode` latch and an instruction (R7). -/
abbrev Word := BitVec 16

/-- The number of a V register: V0 to VF (R21). -/
abbrev Reg := Fin 16

/-- `VF`, which is `V[15]` (R9, R22). -/
abbrev VF : Reg := 15

/-- `V0`, which is `V[0]` (R9). -/
abbrev V0 : Reg := 0

end Sys2Proof
end

