-- ==== Sys2Proof/Syntax.lean ====
section
/-! DEFINITION. The 34 instructions, one constructor per row of spec/opcode_table.json (spec R96), in the table's order.
Operands: `x`, `y` are register numbers, `kk` an immediate byte, `nnn` a 12-bit address held in a 16-bit word and `n` a row
count (R91, R93); that `nnn` and `n` fit their fields is `Instr.wellFormed`. -/

namespace Sys2Proof

inductive Instr where
  /-- `00E0`, CLS (R210). -/
  | cls
  /-- `00EE`, RET (R170). -/
  | ret
  /-- `1nnn`, JP nnn (R171). -/
  | jp (nnn : Word)
  /-- `2nnn`, CALL nnn (R172). -/
  | call (nnn : Word)
  /-- `3xkk`, SE Vx, kk (R173). -/
  | seVxKk (x : Reg) (kk : Byte)
  /-- `4xkk`, SNE Vx, kk (R174). -/
  | sneVxKk (x : Reg) (kk : Byte)
  /-- `5xy0`, SE Vx, Vy (R175). -/
  | seVxVy (x y : Reg)
  /-- `6xkk`, LD Vx, kk (R140). -/
  | ldVxKk (x : Reg) (kk : Byte)
  /-- `7xkk`, ADD Vx, kk (R141). -/
  | addVxKk (x : Reg) (kk : Byte)
  /-- `8xy0`, LD Vx, Vy (R142). -/
  | ldVxVy (x y : Reg)
  /-- `8xy1`, OR Vx, Vy (R143). -/
  | orVxVy (x y : Reg)
  /-- `8xy2`, AND Vx, Vy (R144). -/
  | andVxVy (x y : Reg)
  /-- `8xy3`, XOR Vx, Vy (R145). -/
  | xorVxVy (x y : Reg)
  /-- `8xy4`, ADD Vx, Vy (R146). -/
  | addVxVy (x y : Reg)
  /-- `8xy5`, SUB Vx, Vy (R147). -/
  | subVxVy (x y : Reg)
  /-- `8xy6`, SHR Vx; the field `y` is carried and ignored (R148, R101). -/
  | shrVx (x y : Reg)
  /-- `8xy7`, SUBN Vx, Vy (R149). -/
  | subnVxVy (x y : Reg)
  /-- `8xyE`, SHL Vx; the field `y` is carried and ignored (R150, R101). -/
  | shlVx (x y : Reg)
  /-- `9xy0`, SNE Vx, Vy (R176). -/
  | sneVxVy (x y : Reg)
  /-- `Annn`, LD I, nnn (R190). -/
  | ldINnn (nnn : Word)
  /-- `Bnnn`, JP V0, nnn (R177). -/
  | jpV0 (nnn : Word)
  /-- `Cxkk`, RND Vx, kk (R151). -/
  | rnd (x : Reg) (kk : Byte)
  /-- `Dxyn`, DRW Vx, Vy, n (R211). -/
  | drw (x y : Reg) (n : Nat)
  /-- `Ex9E`, SKP Vx (R230). -/
  | skp (x : Reg)
  /-- `ExA1`, SKNP Vx (R231). -/
  | sknp (x : Reg)
  /-- `Fx07`, LD Vx, DT (R240). -/
  | ldVxDt (x : Reg)
  /-- `Fx0A`, LD Vx, K (R232). -/
  | ldVxK (x : Reg)
  /-- `Fx15`, LD DT, Vx (R241). -/
  | ldDtVx (x : Reg)
  /-- `Fx18`, LD ST, Vx (R242). -/
  | ldStVx (x : Reg)
  /-- `Fx1E`, ADD I, Vx (R191). -/
  | addIVx (x : Reg)
  /-- `Fx29`, LD F, Vx (R192). -/
  | ldFVx (x : Reg)
  /-- `Fx33`, LD B, Vx (R193). -/
  | ldBVx (x : Reg)
  /-- `Fx55`, LD [I], Vx (R194). -/
  | ldMiVx (x : Reg)
  /-- `Fx65`, LD Vx, [I] (R195). -/
  | ldVxMi (x : Reg)
  deriving DecidableEq, Repr

end Sys2Proof
end

