-- ==== Sys2Proof/WellFormed.lean ====
section
/-! DEFINITION. When a term of `Instr` is an instruction the encoding can hold: `nnn` has 12 bits and `n` has 4 (spec R91).
The other operands fit their fields by their types. -/

namespace Sys2Proof

/-- `nnn` is the 12-bit field 11:0 (R91). -/
def fitsNnn (nnn : Word) : Bool := decide (nnn.toNat < 0x1000)

/-- `n` is the 4-bit field 3:0 (R91). -/
def fitsN (n : Nat) : Bool := decide (n < 16)

/-- The operands fit the fields of the instruction's format (R92). -/
def Instr.wellFormed : Instr → Bool
  | .cls => true
  | .ret => true
  | .jp nnn => fitsNnn nnn
  | .call nnn => fitsNnn nnn
  | .seVxKk _ _ => true
  | .sneVxKk _ _ => true
  | .seVxVy _ _ => true
  | .ldVxKk _ _ => true
  | .addVxKk _ _ => true
  | .ldVxVy _ _ => true
  | .orVxVy _ _ => true
  | .andVxVy _ _ => true
  | .xorVxVy _ _ => true
  | .addVxVy _ _ => true
  | .subVxVy _ _ => true
  | .shrVx _ _ => true
  | .subnVxVy _ _ => true
  | .shlVx _ _ => true
  | .sneVxVy _ _ => true
  | .ldINnn nnn => fitsNnn nnn
  | .jpV0 nnn => fitsNnn nnn
  | .rnd _ _ => true
  | .drw _ _ n => fitsN n
  | .skp _ => true
  | .sknp _ => true
  | .ldVxDt _ => true
  | .ldVxK _ => true
  | .ldDtVx _ => true
  | .ldStVx _ => true
  | .addIVx _ => true
  | .ldFVx _ => true
  | .ldBVx _ => true
  | .ldMiVx _ => true
  | .ldVxMi _ => true

end Sys2Proof
end

