-- ==== Sys2Proof/Decode.lean ====
section
/-! DEFINITION. The decoder and dispatcher as a total function of the fetched word (spec R91, R94 to R99), and after it the
encoder (R106) and the opcode map (R96) they are both held against. -/

namespace Sys2Proof

/-! ## Fields of the word (R91) -/

/-- The family selector, bits 15:12: `(opcode & 0xF000) >> 12`. -/
def fieldTop (w : Word) : Nat := (w.extractLsb' 12 4).toNat

/-- `x`, bits 11:8: `(opcode & 0x0F00) >> 8`, a register number. -/
def fieldX (w : Word) : Reg := (w.extractLsb' 8 4).toFin

/-- `y`, bits 7:4: `(opcode & 0x00F0) >> 4`, a second register number. -/
def fieldY (w : Word) : Reg := (w.extractLsb' 4 4).toFin

/-- `n`, bits 3:0: `opcode & 0x000F`. -/
def fieldN (w : Word) : Nat := (w.extractLsb' 0 4).toNat

/-- `kk`, bits 7:0: `opcode & 0x00FF`. -/
def fieldKk (w : Word) : Byte := w.extractLsb' 0 8

/-- `nnn`, bits 11:0: `opcode & 0x0FFF`, zero-extended to 16 bits (R93). -/
def fieldNnn (w : Word) : Word := w &&& 0x0FFF

/-! ## Dispatch (R94, R95, R98) -/

/-- What the decoder answers: one of the 34 instructions with its fields, or Unknown with the word (R97). -/
inductive Decoded where
  | instr (i : Instr)
  | unknown (w : Word)
  deriving DecidableEq, Repr

/-- Family 0x0: the whole low 12 bits are compared (R95, R98). -/
def decodeFamily0 (w : Word) : Decoded :=
  if fieldNnn w = 0x0E0 then .instr .cls
  else if fieldNnn w = 0x0EE then .instr .ret
  else .unknown w

/-- Family 0x8: sub-dispatch on `n` (R95); every other `n` is unknown (R99). -/
def decodeFamily8 (w : Word) : Decoded :=
  match fieldN w with
  | 0x0 => .instr (.ldVxVy (fieldX w) (fieldY w))
  | 0x1 => .instr (.orVxVy (fieldX w) (fieldY w))
  | 0x2 => .instr (.andVxVy (fieldX w) (fieldY w))
  | 0x3 => .instr (.xorVxVy (fieldX w) (fieldY w))
  | 0x4 => .instr (.addVxVy (fieldX w) (fieldY w))
  | 0x5 => .instr (.subVxVy (fieldX w) (fieldY w))
  | 0x6 => .instr (.shrVx (fieldX w) (fieldY w))
  | 0x7 => .instr (.subnVxVy (fieldX w) (fieldY w))
  | 0xE => .instr (.shlVx (fieldX w) (fieldY w))
  | _ => .unknown w

/-- Family 0xE: sub-dispatch on `kk` (R95). -/
def decodeFamilyE (w : Word) : Decoded :=
  match (fieldKk w).toNat with
  | 0x9E => .instr (.skp (fieldX w))
  | 0xA1 => .instr (.sknp (fieldX w))
  | _ => .unknown w

/-- Family 0xF: sub-dispatch on `kk`, nine operations (R95). -/
def decodeFamilyF (w : Word) : Decoded :=
  match (fieldKk w).toNat with
  | 0x07 => .instr (.ldVxDt (fieldX w))
  | 0x0A => .instr (.ldVxK (fieldX w))
  | 0x15 => .instr (.ldDtVx (fieldX w))
  | 0x18 => .instr (.ldStVx (fieldX w))
  | 0x1E => .instr (.addIVx (fieldX w))
  | 0x29 => .instr (.ldFVx (fieldX w))
  | 0x33 => .instr (.ldBVx (fieldX w))
  | 0x55 => .instr (.ldMiVx (fieldX w))
  | 0x65 => .instr (.ldVxMi (fieldX w))
  | _ => .unknown w

/-- The decoder: the 16-way split on the top nibble, then the second level of families 0, 5, 8, 9, E and F. It is defined
for every word and depends on nothing else (R94, R97). Families 0x5 and 0x9 need a low nibble of 0 (R98,
notes/assumptions/6.md). -/
def decode (w : Word) : Decoded :=
  match fieldTop w with
  | 0x0 => decodeFamily0 w
  | 0x1 => .instr (.jp (fieldNnn w))
  | 0x2 => .instr (.call (fieldNnn w))
  | 0x3 => .instr (.seVxKk (fieldX w) (fieldKk w))
  | 0x4 => .instr (.sneVxKk (fieldX w) (fieldKk w))
  | 0x5 => if fieldN w = 0 then .instr (.seVxVy (fieldX w) (fieldY w)) else .unknown w
  | 0x6 => .instr (.ldVxKk (fieldX w) (fieldKk w))
  | 0x7 => .instr (.addVxKk (fieldX w) (fieldKk w))
  | 0x8 => decodeFamily8 w
  | 0x9 => if fieldN w = 0 then .instr (.sneVxVy (fieldX w) (fieldY w)) else .unknown w
  | 0xA => .instr (.ldINnn (fieldNnn w))
  | 0xB => .instr (.jpV0 (fieldNnn w))
  | 0xC => .instr (.rnd (fieldX w) (fieldKk w))
  | 0xD => .instr (.drw (fieldX w) (fieldY w) (fieldN w))
  | 0xE => decodeFamilyE w
  | _ => decodeFamilyF w

/-! ## Bytes -/

/-- The word of two bytes, the high byte at the lower address (R61, R90). -/
def wordOfBytes (hi lo : Byte) : Word := hi ++ lo

/-- The high byte of a word, which stands at the lower address (R61). -/
def hiByte (w : Word) : Byte := w.extractLsb' 8 8

/-- The low byte of a word, which stands at the next address (R61). -/
def loByte (w : Word) : Byte := w.extractLsb' 0 8

/-- What decoding a sequence of bytes answers. -/
inductive DecodedBytes where
  /-- An instruction, and the bytes after its two. -/
  | instr (i : Instr) (rest : List Byte)
  /-- The first two bytes form a word that no pattern matches (R99). -/
  | unknown (w : Word)
  /-- Fewer than two bytes: no whole word (every instruction is 2 bytes, R90, R102). -/
  | truncated
  deriving DecidableEq, Repr

/-- The decoder on any bytes. -/
def decodeBytes : List Byte → DecodedBytes
  | hi :: lo :: rest =>
    match decode (wordOfBytes hi lo) with
    | .instr i => .instr i rest
    | .unknown w => .unknown w
  | _ => .truncated

/-- The instruction the decoder reads from the bits `w`, numbered as spec/opcode_table.json numbers them: a row is one
16-bit word, bit 0 its least significant bit. A number that does not fit `nbits` or the word is refused. -/
def decodeTableWord (nbits w : Nat) : Option Instr :=
  if w < 2 ^ nbits ∧ w < 2 ^ 16 then
    match decodeBytes [hiByte (BitVec.ofNat 16 w), loByte (BitVec.ofNat 16 w)] with
    | .instr i _ => some i
    | _ => none
  else none

/-! ## Encoding (R106) -/

/-- `x << 8` (R106). -/
def placeX (x : Reg) : Word := BitVec.ofNat 16 x.val <<< 8

/-- `y << 4` (R106). -/
def placeY (y : Reg) : Word := BitVec.ofNat 16 y.val <<< 4

/-- `kk` in bits 7:0 (R106). -/
def placeKk (kk : Byte) : Word := kk.setWidth 16

/-- Format XK: `match | (x << 8) | kk` (R106). -/
def encodeXK (pattern : Word) (x : Reg) (kk : Byte) : Word := pattern ||| placeX x ||| placeKk kk

/-- Format XY: `match | (x << 8) | (y << 4)` (R106). -/
def encodeXY (pattern : Word) (x y : Reg) : Word := pattern ||| placeX x ||| placeY y

/-- Format X: `match | (x << 8)` (R106). -/
def encodeX (pattern : Word) (x : Reg) : Word := pattern ||| placeX x

/-- The word of an instruction (R106, with the `match` column of R96). It is the instruction's word when the instruction is
well-formed. -/
def encode : Instr → Word
  | .cls => 0x00E0
  | .ret => 0x00EE
  | .jp nnn => 0x1000 ||| nnn
  | .call nnn => 0x2000 ||| nnn
  | .seVxKk x kk => encodeXK 0x3000 x kk
  | .sneVxKk x kk => encodeXK 0x4000 x kk
  | .seVxVy x y => encodeXY 0x5000 x y
  | .ldVxKk x kk => encodeXK 0x6000 x kk
  | .addVxKk x kk => encodeXK 0x7000 x kk
  | .ldVxVy x y => encodeXY 0x8000 x y
  | .orVxVy x y => encodeXY 0x8001 x y
  | .andVxVy x y => encodeXY 0x8002 x y
  | .xorVxVy x y => encodeXY 0x8003 x y
  | .addVxVy x y => encodeXY 0x8004 x y
  | .subVxVy x y => encodeXY 0x8005 x y
  | .shrVx x y => encodeXY 0x8006 x y
  | .subnVxVy x y => encodeXY 0x8007 x y
  | .shlVx x y => encodeXY 0x800E x y
  | .sneVxVy x y => encodeXY 0x9000 x y
  | .ldINnn nnn => 0xA000 ||| nnn
  | .jpV0 nnn => 0xB000 ||| nnn
  | .rnd x kk => encodeXK 0xC000 x kk
  | .drw x y n => encodeXY 0xD000 x y ||| BitVec.ofNat 16 n
  | .skp x => encodeX 0xE09E x
  | .sknp x => encodeX 0xE0A1 x
  | .ldVxDt x => encodeX 0xF007 x
  | .ldVxK x => encodeX 0xF00A x
  | .ldDtVx x => encodeX 0xF015 x
  | .ldStVx x => encodeX 0xF018 x
  | .addIVx x => encodeX 0xF01E x
  | .ldFVx x => encodeX 0xF029 x
  | .ldBVx x => encodeX 0xF033 x
  | .ldMiVx x => encodeX 0xF055 x
  | .ldVxMi x => encodeX 0xF065 x

/-- The two bytes of an instruction in memory order (R61, R90). -/
def encodeBytes (i : Instr) : List Byte := [hiByte (encode i), loByte (encode i)]

/-! ## The opcode map (R96) -/

/-- A row of the opcode map: `w` is the instruction of the row when `w & mask = pattern` (R96). -/
structure OpcodeRow where
  pattern : Word
  mask : Word
  deriving DecidableEq, Repr

/-- `w & mask == match` (R96). -/
def OpcodeRow.matchesWord (r : OpcodeRow) (w : Word) : Bool := w &&& r.mask == r.pattern

/-- The row of the opcode map an instruction belongs to: its `match` and `mask` columns (R96). -/
def Instr.row : Instr → OpcodeRow
  | .cls => ⟨0x00E0, 0xFFFF⟩
  | .ret => ⟨0x00EE, 0xFFFF⟩
  | .jp _ => ⟨0x1000, 0xF000⟩
  | .call _ => ⟨0x2000, 0xF000⟩
  | .seVxKk _ _ => ⟨0x3000, 0xF000⟩
  | .sneVxKk _ _ => ⟨0x4000, 0xF000⟩
  | .seVxVy _ _ => ⟨0x5000, 0xF00F⟩
  | .ldVxKk _ _ => ⟨0x6000, 0xF000⟩
  | .addVxKk _ _ => ⟨0x7000, 0xF000⟩
  | .ldVxVy _ _ => ⟨0x8000, 0xF00F⟩
  | .orVxVy _ _ => ⟨0x8001, 0xF00F⟩
  | .andVxVy _ _ => ⟨0x8002, 0xF00F⟩
  | .xorVxVy _ _ => ⟨0x8003, 0xF00F⟩
  | .addVxVy _ _ => ⟨0x8004, 0xF00F⟩
  | .subVxVy _ _ => ⟨0x8005, 0xF00F⟩
  | .shrVx _ _ => ⟨0x8006, 0xF00F⟩
  | .subnVxVy _ _ => ⟨0x8007, 0xF00F⟩
  | .shlVx _ _ => ⟨0x800E, 0xF00F⟩
  | .sneVxVy _ _ => ⟨0x9000, 0xF00F⟩
  | .ldINnn _ => ⟨0xA000, 0xF000⟩
  | .jpV0 _ => ⟨0xB000, 0xF000⟩
  | .rnd _ _ => ⟨0xC000, 0xF000⟩
  | .drw _ _ _ => ⟨0xD000, 0xF000⟩
  | .skp _ => ⟨0xE09E, 0xF0FF⟩
  | .sknp _ => ⟨0xE0A1, 0xF0FF⟩
  | .ldVxDt _ => ⟨0xF007, 0xF0FF⟩
  | .ldVxK _ => ⟨0xF00A, 0xF0FF⟩
  | .ldDtVx _ => ⟨0xF015, 0xF0FF⟩
  | .ldStVx _ => ⟨0xF018, 0xF0FF⟩
  | .addIVx _ => ⟨0xF01E, 0xF0FF⟩
  | .ldFVx _ => ⟨0xF029, 0xF0FF⟩
  | .ldBVx _ => ⟨0xF033, 0xF0FF⟩
  | .ldMiVx _ => ⟨0xF055, 0xF0FF⟩
  | .ldVxMi _ => ⟨0xF065, 0xF0FF⟩

/-- The 34 rows of the opcode map, in the table's order (R96): families 0x0 to 0x7. -/
def opcodeMapLow : List OpcodeRow :=
  [⟨0x00E0, 0xFFFF⟩, ⟨0x00EE, 0xFFFF⟩, ⟨0x1000, 0xF000⟩, ⟨0x2000, 0xF000⟩, ⟨0x3000, 0xF000⟩, ⟨0x4000, 0xF000⟩,
    ⟨0x5000, 0xF00F⟩, ⟨0x6000, 0xF000⟩, ⟨0x7000, 0xF000⟩]

/-- Families 0x8 to 0xD (R96). -/
def opcodeMapMiddle : List OpcodeRow :=
  [⟨0x8000, 0xF00F⟩, ⟨0x8001, 0xF00F⟩, ⟨0x8002, 0xF00F⟩, ⟨0x8003, 0xF00F⟩, ⟨0x8004, 0xF00F⟩, ⟨0x8005, 0xF00F⟩,
    ⟨0x8006, 0xF00F⟩, ⟨0x8007, 0xF00F⟩, ⟨0x800E, 0xF00F⟩, ⟨0x9000, 0xF00F⟩, ⟨0xA000, 0xF000⟩, ⟨0xB000, 0xF000⟩,
    ⟨0xC000, 0xF000⟩, ⟨0xD000, 0xF000⟩]

/-- Families 0xE and 0xF (R96). -/
def opcodeMapHigh : List OpcodeRow :=
  [⟨0xE09E, 0xF0FF⟩, ⟨0xE0A1, 0xF0FF⟩, ⟨0xF007, 0xF0FF⟩, ⟨0xF00A, 0xF0FF⟩, ⟨0xF015, 0xF0FF⟩, ⟨0xF018, 0xF0FF⟩,
    ⟨0xF01E, 0xF0FF⟩, ⟨0xF029, 0xF0FF⟩, ⟨0xF033, 0xF0FF⟩, ⟨0xF055, 0xF0FF⟩, ⟨0xF065, 0xF0FF⟩]

/-- The complete opcode map (R96). -/
def opcodeMap : List OpcodeRow := opcodeMapLow ++ opcodeMapMiddle ++ opcodeMapHigh

end Sys2Proof
end

