-- ==== Sys2Proof/Config.lean ====
section
/-! DEFINITION. The place and the size limit of a program image (spec R7), and the one free value: the random byte. The sizes of the
register files and stores (R7) stand in the types of `State`'s fields. -/

namespace Sys2Proof.Config

/-- PROGRAM_BASE: where `load_program` puts the image and where pc starts (R7, R65). -/
abbrev programBase : Nat := 0x200

/-- MAX_IMAGE: 0x1000 - 0x200 = 3584 bytes (R7, R296). -/
abbrev maxImage : Nat := 0x1000 - 0x200

/-- FREE VALUE. The random byte of the step with index `k` when the host has presented none: "any of the 256 values in
every step, with no relation between steps" (R151, R281). It has no body, so no proof can use a value of it
(notes/assumptions/2.md). -/
opaque rndInput : Nat → Byte

end Sys2Proof.Config
end

