-- ==== Sys2Proof/Machine/Memory.lean ====
section
/-! DEFINITION. Main memory (spec R33, R60, R64 to R67) as a list of (address, byte) pairs in one canonical form, and the
primitives `MemRead` and `MemWrite` of R10. -/

namespace Sys2Proof.Machine

/-- Main memory: addresses strictly rising, no entry equal to what an unlisted address reads as. -/
abbrev Memory := List Host.Cell

/-- FONT_ROM, glyphs 0 to 7, five bytes each (R33). PRESUMED by the spec itself: "from general knowledge, not in source"
(notes/assumptions/1.md). -/
def fontRomLow : List Byte :=
  [0xF0, 0x90, 0x90, 0x90, 0xF0] ++ [0x20, 0x60, 0x20, 0x20, 0x70] ++
  [0xF0, 0x10, 0xF0, 0x80, 0xF0] ++ [0xF0, 0x10, 0xF0, 0x10, 0xF0] ++
  [0x90, 0x90, 0xF0, 0x10, 0x10] ++ [0xF0, 0x80, 0xF0, 0x10, 0xF0] ++
  [0xF0, 0x80, 0xF0, 0x90, 0xF0] ++ [0xF0, 0x10, 0x20, 0x40, 0x40]

/-- FONT_ROM, glyphs 8 to F (R33, notes/assumptions/1.md). -/
def fontRomHigh : List Byte :=
  [0xF0, 0x90, 0xF0, 0x90, 0xF0] ++ [0xF0, 0x90, 0xF0, 0x10, 0xF0] ++
  [0xF0, 0x90, 0xF0, 0x90, 0x90] ++ [0xE0, 0x90, 0xE0, 0x90, 0xE0] ++
  [0xF0, 0x80, 0x80, 0x80, 0xF0] ++ [0xE0, 0x90, 0x90, 0x90, 0xE0] ++
  [0xF0, 0x80, 0xF0, 0x80, 0xF0] ++ [0xF0, 0x80, 0xF0, 0x80, 0x80]

/-- The parameter FONT_ROM at its default: 80 bytes, glyph d at 5*d to 5*d+4 (R7, R33). -/
def fontRom : List Byte := fontRomLow ++ fontRomHigh

/-- What an unlisted address reads as: the reset contents. After `initialize` "indices 0x000–0x04F hold the font ROM" and
every other byte is 0 (R33, R34). -/
def initialByte (a : Nat) : Byte := fontRom.getD a 0

/-- `MemRead(a, 1)` (R10): the byte at `a`. Every caller has tested the range first (R66), so `a` is at most 0xFFF. -/
def Memory.read : Memory → Nat → Byte
  | [], a => initialByte a
  | (c, v) :: rest, a => if c = a then v else Memory.read rest a

/-- Puts `b` at `a` in front of `rest`, unless that is what `a` reads as unlisted. -/
def Memory.consCell (a : Nat) (b : Byte) (rest : Memory) : Memory :=
  if b = initialByte a then rest else (a, b) :: rest

/-- `MemWrite(a, 1, b)` (R10). Keeps the canonical form. -/
def Memory.write : Memory → Nat → Byte → Memory
  | [], a, b => Memory.consCell a b []
  | (c, v) :: rest, a, b =>
    if a < c then Memory.consCell a b ((c, v) :: rest)
    else if a = c then Memory.consCell a b rest
    else (c, v) :: Memory.write rest a b

/-- Writes bytes at ascending addresses from `a` (R62, R76). -/
def Memory.writeBytes : Memory → Nat → List Byte → Memory
  | m, _, [] => m
  | m, a, b :: bs => Memory.writeBytes (Memory.write m a b) (a + 1) bs

/-- `MemRead(a, 2)` (R10): big-endian, the high byte at the lower address (R61). -/
def Memory.readWord (m : Memory) (a : Nat) : Word := Memory.read m a ++ Memory.read m (a + 1)

/-- The canonical form of a memory whose addresses are at least `lo`: strictly rising, inside 0x000 to 0xFFF, and no entry
equal to what its address reads as unlisted. -/
def Memory.wfFrom (lo : Nat) : Memory → Bool
  | [] => true
  | (a, b) :: rest =>
    decide (lo ≤ a) && decide (a < 0x1000) && decide (b ≠ initialByte a) && Memory.wfFrom (a + 1) rest

/-- The canonical form. -/
def Memory.wf (m : Memory) : Bool := Memory.wfFrom 0 m

end Sys2Proof.Machine
end

