-- ==== Sys2Proof/Machine/State.lean ====
section
/-! DEFINITION. The state of the machine (spec R20: exactly twelve elements), the two fields that carry the input `rnd` of a
step (R38, R281), the faults (R250), the refusals and the state after `initialize` (R34). -/

namespace Sys2Proof.Machine

/-- The framebuffer: 32 rows of 64 one-bit cells, row-major; cell 64*row + col is bit col of row `row` (R33, R40,
notes/assumptions/16.md). -/
abbrev Gfx := Vector (BitVec 64) 32

/-- The Machine of R20, and the input of the coming step. -/
structure State where
  /-- Main memory, 4096 bytes (R33, R60). -/
  mem : Memory
  /-- V0 to VF (R21). -/
  V : Vector Byte 16
  /-- The index register (R27). -/
  I : Word
  /-- The program counter (R23, R24). -/
  pc : Word
  /-- The call stack, 16 slots (R30). -/
  stack : Vector Word 16
  /-- The stack pointer: the next free slot, 0 (empty) to 16 (full) (R31, notes/assumptions/13.md). -/
  sp : Fin 17
  /-- The key latch: bit i is `key[i]`, 1 is pressed (R32, notes/assumptions/16.md). -/
  key : BitVec 16
  /-- The framebuffer (R33). -/
  gfx : Gfx
  /-- The delay timer (R28, R271). -/
  delayTimer : Byte
  /-- The sound timer (R28, R272). -/
  soundTimer : Byte
  /-- The draw flag (R25). -/
  drawFlag : Bool
  /-- The latch of the word fetched last (R29). -/
  opcode : Word
  /-- THE MODEL'S OWN: the byte the host has presented for the coming step, if it has (R281, notes/assumptions/2.md). -/
  rndIn : Option Byte
  /-- THE MODEL'S OWN: the index of the free byte `Config.rndInput` that the coming step reads when the host has presented
  none (notes/assumptions/2.md). -/
  rndIndex : Nat
  deriving DecidableEq, Repr

/-- The faults of R250. Each is the typed failure that a `step` or a `load_program` returns to its caller, with the record
`(code, pc, opcode, info)`; `Fault.code` and `Fault.info` give the other two members. Every one is the outcome the spec
states, so none is a departure; stopping there is safe. -/
inductive Fault where
  /-- Code 1. Raised by the dispatch phase of a step on a word that matches no pattern (R251). Safe. -/
  | unknownOpcode (pc opcode : Word)
  /-- Code 2. Raised by CALL with sp = 16 (R252). Safe. -/
  | stackOverflow (pc opcode : Word)
  /-- Code 3. Raised by RET with sp = 0 (R253). Safe. -/
  | stackUnderflow (pc opcode : Word)
  /-- Code 4. Raised by the host operation `load_program` on more than 3584 bytes (R257). Safe. -/
  | oversizeImage (length : Nat)
  /-- Code 5. Raised by a step with pc above 0xFFE, before the fetch; `opcode` is the old latch (R254, R250). Safe. -/
  | pcOutOfRange (pc opcode : Word)
  /-- Code 6. Raised by DRW, LD_B_VX, LD_MI_VX, LD_VX_MI when the access passes 0xFFF; `address` is the lowest address out of
  range (R255, R250). Safe. -/
  | memOutOfRange (pc opcode : Word) (address : Nat)
  /-- Code 7. Raised by SKP and SKNP when V[x] is above 15 (R256). Safe. -/
  | keyIndexOutOfRange (pc opcode : Word) (index : Byte)
  deriving DecidableEq, Repr

/-- What the model has no transition for. -/
inductive Refusal where
  /-- Raised by an arm of `exec` whose instruction has no meaning yet. Safe. No arm raises it now. -/
  | notModelled (mnemonic : String)
  /-- Raised by every host operation but `initialize` before the first `initialize`: the spec gives it no meaning (R35,
  R291). Safe. -/
  | notInitialized
  /-- Raised by the host operation `set_key` with an index above 15: "the operation is not defined for it: a model refuses
  it" (R277). Safe. -/
  | notAKey (index : Nat)
  deriving DecidableEq, Repr

/-- The outcome of an instruction, a step or a host operation that can fail (R11). -/
abbrev Result := Host.Outcome State Fault Refusal

/-- The state after `initialize` (R34, R290). `mem` lists nothing: an unlisted address reads as the reset contents. The last
two fields are the model's own (notes/assumptions/2.md). -/
def State.reset : State where
  mem := []
  V := Vector.replicate 16 0
  I := 0
  pc := 0x200
  stack := Vector.replicate 16 0
  sp := 0
  key := 0
  gfx := Vector.replicate 32 0
  delayTimer := 0
  soundTimer := 0
  drawFlag := true
  opcode := 0
  rndIn := none
  rndIndex := 0

end Sys2Proof.Machine
end

