-- ==== Sys2Proof/Machine/Ops.lean ====
section
/-! DEFINITION. The named operations over registers, stack, keys, timers and memory that the meanings are written with, and
raising a fault and going on after one (spec R128, R258, R260). -/

namespace Sys2Proof.Machine

/-! ## V registers, I and pc -/

/-- The value of `V[x]` (R21). -/
def State.readV (s : State) (x : Reg) : Byte := s.V.get x

/-- `V[x] <- b` (R21: no register is hardwired). -/
def State.writeV (s : State) (x : Reg) (b : Byte) : State := { s with V := s.V.set x.val b x.isLt }

/-- `I <- w`; the register holds any 16-bit value (R27). -/
def State.setI (s : State) (w : Word) : State := { s with I := w }

/-- `pc <- w`; the target is neither masked nor range-checked (R24, R171). -/
def State.jumpTo (s : State) (w : Word) : State := { s with pc := w }

/-- `pc <- pc + 2`, one instruction width (R123). -/
def State.advance (s : State) : State := { s with pc := s.pc + 2 }

/-- `pc <- pc + 4` on a taken skip, else `pc <- pc + 2` (R124). -/
def State.skipIf (s : State) (taken : Bool) : State := { s with pc := if taken then s.pc + 4 else s.pc + 2 }

/-! ## The call stack -/

/-- `stack[sp] <- w; sp <- sp + 1` (R172); none when the stack is full. -/
def State.push (s : State) (w : Word) : Option State :=
  if h : s.sp.val < 16 then
    some { s with stack := s.stack.set s.sp.val w h, sp := ⟨s.sp.val + 1, by omega⟩ }
  else none

/-- `sp <- sp - 1`, and the word `stack[sp]` at the new sp; the slot keeps its content (R170, R30). None when the stack is
empty. -/
def State.pop (s : State) : Option (Word × State) :=
  if h : s.sp.val = 0 then none
  else some (s.stack.get ⟨s.sp.val - 1, by have := s.sp.isLt; omega⟩,
    { s with sp := ⟨s.sp.val - 1, by have := s.sp.isLt; omega⟩ })

/-! ## Keys -/

/-- `key[k] = 1` (R32). -/
def State.keyDown (s : State) (k : Nat) : Bool := s.key.getLsbD k

/-- The least i in 0..15 with `key[i] = 1` (R232, notes/assumptions/10.md). -/
def State.leastKey (s : State) : Option Nat := (List.range 16).find? (fun i => s.keyDown i)

/-! ## Timers -/

/-- One decrement of a timer: `max(t - 1, 0)`, never from 0 to 255 (R270). -/
def tickTimer (t : Byte) : Byte := if t = 0 then 0 else t - 1

/-- The tick: both timers together (R129, R270). -/
def State.tick (s : State) : State :=
  { s with delayTimer := tickTimer s.delayTimer, soundTimer := tickTimer s.soundTimer }

/-! ## The random input -/

/-- The byte `rnd` of the coming step: the one the host presented, else a free value (R281, notes/assumptions/2.md). -/
def State.rndByte (s : State) : Byte := s.rndIn.getD (Config.rndInput s.rndIndex)

/-- The host presents `rnd` with the coming step (R281). -/
def State.present (s : State) (rnd : Byte) : State := { s with rndIn := some rnd }

/-- The step is over: its `rnd` is used up, the next step has a fresh one (R38). -/
def State.endInput (s : State) : State := { s with rndIn := none, rndIndex := s.rndIndex + 1 }

/-! ## Fetch -/

/-- The range test before the fetch: both bytes, pc and pc + 1, are inside memory (R24, R254). -/
def State.canFetch (s : State) : Bool := decide (s.pc.toNat ≤ 0xFFE)

/-- The word at pc (R61, R121). -/
def State.fetchWord (s : State) : Word := s.mem.readWord s.pc.toNat

/-- `opcode <- w` (R29, R121). -/
def State.latchOpcode (s : State) (w : Word) : State := { s with opcode := w }

/-! ## Raising a fault, and going on after one -/

/-- Raising a fault ends the step with the typed failure and its record: the address of the instruction (the unchanged pc)
and the word in the `opcode` latch (R250, R258). Nothing else happens: there is no handler, vector or saved pc. -/
def State.raise (s : State) (fault : Word → Word → Fault) : Result := .fault (fault s.pc s.opcode)

/-- The word a faulting step left in the `opcode` latch: the fetched word, when the fault came after the fetch (R258). -/
def Fault.latched : Fault → Option Word
  | .unknownOpcode _ w => some w
  | .stackOverflow _ w => some w
  | .stackUnderflow _ w => some w
  | .oversizeImage _ => none
  | .pcOutOfRange _ _ => none
  | .memOutOfRange _ w _ => some w
  | .keyIndexOutOfRange _ w _ => some w

/-- The machine the caller holds after a `step` from `s` returned the fault `f`: everything as before the step but the
`opcode` latch (R128, R258); the caller may go on from there (R260). The step's `rnd` is used up
(notes/assumptions/3.md). -/
def State.afterFault (s : State) (f : Fault) : State :=
  { s with opcode := f.latched.getD s.opcode }.endInput

/-- The numeric code of a fault (R250). -/
def Fault.code : Fault → Nat
  | .unknownOpcode _ _ => 1
  | .stackOverflow _ _ => 2
  | .stackUnderflow _ _ => 3
  | .oversizeImage _ => 4
  | .pcOutOfRange _ _ => 5
  | .memOutOfRange _ _ _ => 6
  | .keyIndexOutOfRange _ _ _ => 7

/-- The `info` of a fault's record, none where R250 records none. -/
def Fault.info : Fault → Option Nat
  | .unknownOpcode _ w => some w.toNat
  | .stackOverflow _ _ => none
  | .stackUnderflow _ _ => none
  | .oversizeImage length => some length
  | .pcOutOfRange pc _ => some pc.toNat
  | .memOutOfRange _ _ address => some address
  | .keyIndexOutOfRange _ _ index => some index.toNat

end Sys2Proof.Machine
end

