-- ==== Sys2Proof/Machine/Flags.lean ====
section
/-! DEFINITION. The flag computations: VF is the machine's only flag of an instruction's result (spec R22, R25). -/

namespace Sys2Proof.Machine

/-- A flag as the byte VF receives: 1 or 0 (R22). -/
def flagByte (b : Bool) : Byte := if b then 1 else 0

/-- The carry of an addition: the true sum exceeds 255 (R146, R152). -/
def carryFlag (a b : Byte) : Bool := decide (a.toNat + b.toNat > 255)

/-- The "not borrow" of a subtraction a - b: strictly a > b, so equal operands give 0 (R147, R149, R152). -/
def notBorrowFlag (a b : Byte) : Bool := decide (a.toNat > b.toNat)

/-- The bit a right shift moves out: bit 0 (R148). -/
def shiftedOutRight (a : Byte) : Bool := a.getLsbD 0

/-- The bit a left shift moves out: bit 7 (R150). -/
def shiftedOutLeft (a : Byte) : Bool := a.getLsbD 7

/-- The range flag of `Fx1E`: the unbounded sum I + V[x] exceeds 0xFFF (R191). -/
def indexRangeFlag (i : Word) (a : Byte) : Bool := decide (i.toNat + a.toNat > 0xFFF)

/-- `VF <- flag` (R22). -/
def State.writeFlag (s : State) (flag : Bool) : State := s.writeV VF (flagByte flag)

/-- First `VF <- flag`, then `V[x] <- result`, then `pc <- pc + 2`: at x = 0xF the result stays and the flag is lost (R126,
notes/assumptions/9.md). -/
def State.writeFlagged (s : State) (x : Reg) (flag : Bool) (result : Byte) : State :=
  ((s.writeFlag flag).writeV x result).advance

end Sys2Proof.Machine
end

