-- ==== Sys2Proof/Machine/Operands.lean ====
section
/-! DEFINITION. The operand forms (spec R93, R196): registers and immediates stand in the instruction; the one addressing
mode is `I + k`. Here are the address, the range test that comes before every transfer, and the register block V0 to Vx. -/

namespace Sys2Proof.Machine

/-- The effective address `I + k`: an unbounded sum, neither truncated nor wrapped (R60, R196). -/
def State.dataAddr (s : State) (k : Nat) : Nat := s.I.toNat + k

/-- An access of `count` bytes from `I` reaches an address above 0xFFF; an access of no bytes does not (R66, R255). -/
def State.accessOutOfRange (s : State) (count : Nat) : Bool :=
  decide (0 < count ∧ s.dataAddr (count - 1) > 0xFFF)

/-- The lowest address out of range of an access from `I`: `max(I, 0x1000)` (R250). -/
def State.firstBadAddr (s : State) : Nat := max s.I.toNat 0x1000

/-- Makes the range test of an access of `count` bytes from `I` before anything of the instruction happens: MemOutOfRange
when it fails, else `k` (R66, R127, R255). -/
def State.withAccess (s : State) (count : Nat) (k : Result) : Result :=
  if s.accessOutOfRange count then s.raise (fun pc w => .memOutOfRange pc w s.firstBadAddr) else k

/-- The key number that `V[x]` names, tested before anything of the instruction happens: KeyIndexOutOfRange above 15, else
`k` of the number (R256). -/
def State.withKeyIndex (s : State) (x : Reg) (k : Nat → Result) : Result :=
  if (s.readV x).toNat > 15 then s.raise (fun pc w => .keyIndexOutOfRange pc w (s.readV x)) else k (s.readV x).toNat

/-- The bytes of V0 to Vx, V0 first (R62, R194). -/
def State.regBlock (s : State) (x : Reg) : List Byte := s.V.toList.take (x.val + 1)

/-- `V[i] <- mem[I + i]` for i in 0..x (R195): the registers above Vx are unchanged. -/
def State.loadBlock (s : State) (x : Reg) : State :=
  { s with V := Vector.ofFn (fun i : Fin 16 => if i ≤ x then s.mem.read (s.dataAddr i.val) else s.V.get i) }

/-- `I <- (I + x + 1) mod 65536` (R194, R195). -/
def State.stepI (s : State) (x : Reg) : State := s.setI (s.I + BitVec.ofNat 16 (x.val + 1))

/-- The three decimal digits of a byte: hundreds, tens, ones (R193). -/
def decimalDigits (b : Byte) : List Byte :=
  [BitVec.ofNat 8 (b.toNat / 100), BitVec.ofNat 8 (b.toNat / 10 % 10), BitVec.ofNat 8 (b.toNat % 10)]

/-- Stores bytes at `I`, `I + 1` and so on (R62, R193, R194). -/
def State.storeAtI (s : State) (bytes : List Byte) : State := { s with mem := s.mem.writeBytes (s.dataAddr 0) bytes }

end Sys2Proof.Machine
end

