-- ==== Sys2Proof/Machine/Arithmetic.lean ====
section
/-! DEFINITION. The arithmetic and logic instructions (spec R140 to R152). The operands are read from the state before
anything is written (R126). -/

namespace Sys2Proof.Machine

/-- `6xkk`: `V[x] <- kk` (R140). -/
def execLdVxKk (x : Reg) (kk : Byte) (s : State) : Result := .next (s.writeV x kk).advance

/-- `7xkk`: `V[x] <- (vx + kk) mod 256`, no flag (R141). -/
def execAddVxKk (x : Reg) (kk : Byte) (s : State) : Result := .next (s.writeV x (s.readV x + kk)).advance

/-- `8xy0`: `V[x] <- vy` (R142). -/
def execLdVxVy (x y : Reg) (s : State) : Result := .next (s.writeV x (s.readV y)).advance

/-- `8xy1`: `V[x] <- vx | vy`, VF untouched (R143). -/
def execOrVxVy (x y : Reg) (s : State) : Result := .next (s.writeV x (s.readV x ||| s.readV y)).advance

/-- `8xy2`: `V[x] <- vx & vy`, VF untouched (R144). -/
def execAndVxVy (x y : Reg) (s : State) : Result := .next (s.writeV x (s.readV x &&& s.readV y)).advance

/-- `8xy3`: `V[x] <- vx ^ vy`, VF untouched (R145). -/
def execXorVxVy (x y : Reg) (s : State) : Result := .next (s.writeV x (s.readV x ^^^ s.readV y)).advance

/-- `8xy4`: VF is the carry, `V[x] <- (vx + vy) mod 256` (R146). -/
def execAddVxVy (x y : Reg) (s : State) : Result :=
  .next (s.writeFlagged x (carryFlag (s.readV x) (s.readV y)) (s.readV x + s.readV y))

/-- `8xy5`: VF is 1 when vx > vy, `V[x] <- (vx - vy) mod 256` (R147). -/
def execSubVxVy (x y : Reg) (s : State) : Result :=
  .next (s.writeFlagged x (notBorrowFlag (s.readV x) (s.readV y)) (s.readV x - s.readV y))

/-- `8xy6`: VF is the old bit 0 of vx, `V[x] <- vx >> 1`; the field `y` is ignored (R148, R101). -/
def execShrVx (x _y : Reg) (s : State) : Result :=
  .next (s.writeFlagged x (shiftedOutRight (s.readV x)) (s.readV x >>> 1))

/-- `8xy7`: VF is 1 when vy > vx, `V[x] <- (vy - vx) mod 256` (R149). -/
def execSubnVxVy (x y : Reg) (s : State) : Result :=
  .next (s.writeFlagged x (notBorrowFlag (s.readV y) (s.readV x)) (s.readV y - s.readV x))

/-- `8xyE`: VF is the old bit 7 of vx, `V[x] <- (vx << 1) mod 256`; the field `y` is ignored (R150, R101). -/
def execShlVx (x _y : Reg) (s : State) : Result :=
  .next (s.writeFlagged x (shiftedOutLeft (s.readV x)) (s.readV x <<< 1))

/-- `Cxkk`: `V[x] <- rnd & kk` (R151). -/
def execRnd (x : Reg) (kk : Byte) (s : State) : Result := .next (s.writeV x (s.rndByte &&& kk)).advance

end Sys2Proof.Machine
end

