-- ==== Sys2Proof/Machine/Control.lean ====
section
/-! DEFINITION. The control-flow instructions (spec R170 to R178). -/

namespace Sys2Proof.Machine

/-- `00EE`: `if sp = 0: raise StackUnderflow; sp <- sp - 1; pc <- stack[sp]` (R170). -/
def execRet (s : State) : Result :=
  match s.pop with
  | none => s.raise .stackUnderflow
  | some (target, t) => .next (t.jumpTo target)

/-- `1nnn`: `pc <- nnn` (R171). -/
def execJp (nnn : Word) (s : State) : Result := .next (s.jumpTo nnn)

/-- `2nnn`: `if sp = 16: raise StackOverflow; stack[sp] <- pc + 2; sp <- sp + 1; pc <- nnn` (R172). -/
def execCall (nnn : Word) (s : State) : Result :=
  match s.push (s.pc + 2) with
  | none => s.raise .stackOverflow
  | some t => .next (t.jumpTo nnn)

/-- `3xkk`: skip when vx = kk (R173). -/
def execSeVxKk (x : Reg) (kk : Byte) (s : State) : Result := .next (s.skipIf (s.readV x == kk))

/-- `4xkk`: skip when vx differs from kk (R174). -/
def execSneVxKk (x : Reg) (kk : Byte) (s : State) : Result := .next (s.skipIf (s.readV x != kk))

/-- `5xy0`: skip when vx = vy (R175). -/
def execSeVxVy (x y : Reg) (s : State) : Result := .next (s.skipIf (s.readV x == s.readV y))

/-- `9xy0`: skip when vx differs from vy (R176). -/
def execSneVxVy (x y : Reg) (s : State) : Result := .next (s.skipIf (s.readV x != s.readV y))

/-- `Bnnn`: `pc <- v0 + nnn`, a 16-bit sum, not masked (R177). -/
def execJpV0 (nnn : Word) (s : State) : Result := .next (s.jumpTo ((s.readV V0).setWidth 16 + nnn))

end Sys2Proof.Machine
end

