-- ==== Sys2Proof/Machine/Graphics.lean ====
section
/-! DEFINITION. The graphics instructions (spec R210 to R214). -/

namespace Sys2Proof.Machine

/-- The cell of sprite pixel (row r, column offset c) of a sprite at (vx, vy): each pixel wraps on its own, columns modulo
64, rows modulo 32; `gfx[64 * ((vy + r) mod 32) + ((vx + c) mod 64)]` (R212, R213, notes/assumptions/7.md). -/
def cellIndex (vx vy : Byte) (r c : Nat) : Nat :=
  64 * ((vy.toNat + r) % 32) + (vx.toNat + c) % 64

/-- The pixel of column offset c of a sprite row: bit 7 is the leftmost, offset 0 (R212, notes/assumptions/8.md). -/
def spriteBit (b : Byte) (c : Nat) : Bool := b.getLsbD (7 - c)

/-- Row `r` of the framebuffer, r from 0 to 31. -/
def rowAt (g : Gfx) (r : Nat) : BitVec 64 := g.getD r 0

/-- `gfx[i]`, i from 0 to 2047, row-major (R9, R40). -/
def cellAt (g : Gfx) (i : Nat) : Bool := (rowAt g (i / 64)).getLsbD (i % 64)

/-- `gfx[i] <- gfx[i] ^ 1`, i from 0 to 2047 (R211). -/
def flipCell (g : Gfx) (i : Nat) : Gfx :=
  g.setIfInBounds (i / 64) (rowAt g (i / 64) ^^^ BitVec.twoPow 64 (i % 64))

/-- The framebuffer with every cell 0 (R210). -/
def clearGfx : Gfx := Vector.replicate 32 0

/-- The framebuffer and the collision flag in the course of a draw. -/
structure Canvas where
  gfx : Gfx
  collision : Bool
  deriving DecidableEq, Repr

/-- The body of the inner loop of R211: a set sprite pixel inverts its cell, and collides when the cell was 1. -/
def Canvas.drawPixel (p : Canvas) (vx vy : Byte) (r : Nat) (b : Byte) (c : Nat) : Canvas :=
  if spriteBit b c then
    { gfx := flipCell p.gfx (cellIndex vx vy r c), collision := p.collision || cellAt p.gfx (cellIndex vx vy r c) }
  else p

/-- The inner loop: the 8 columns of sprite row r, whose byte is `b` (R211). -/
def Canvas.drawRow (p : Canvas) (vx vy : Byte) (r : Nat) (b : Byte) : Canvas :=
  (List.range 8).foldl (fun q c => q.drawPixel vx vy r b c) p

/-- The outer loop: rows 0 to n-1, row r from `mem[i0 + r]` (R211). -/
def Canvas.drawSprite (p : Canvas) (m : Memory) (i0 : Nat) (vx vy : Byte) (n : Nat) : Canvas :=
  (List.range n).foldl (fun q r => q.drawRow vx vy r (m.read (i0 + r))) p

/-- The draw of n rows from `mem[I]` at (V[x], V[y]) on the framebuffer of `s` (R211). -/
def State.drawn (s : State) (x y : Reg) (n : Nat) : Canvas :=
  Canvas.drawSprite ⟨s.gfx, false⟩ s.mem (s.dataAddr 0) (s.readV x) (s.readV y) n

/-- `00E0`: every cell 0, `drawFlag <- 1` (R210). -/
def execCls (s : State) : Result := .next { s with gfx := clearGfx, drawFlag := true }.advance

/-- `Dxyn`: exclusive or of the sprite into the framebuffer, VF the collision, `drawFlag <- 1` (R211). -/
def execDrw (x y : Reg) (n : Nat) (s : State) : Result :=
  s.withAccess n
    (.next ({ s with gfx := (s.drawn x y n).gfx, drawFlag := true }.writeFlag (s.drawn x y n).collision).advance)

end Sys2Proof.Machine
end

