-- ==== Sys2Proof/Machine/Input.lean ====
section
/-! DEFINITION. The key-input instructions (spec R230 to R233). -/

namespace Sys2Proof.Machine

/-- `Ex9E`: skip when the key that V[x] names is pressed (R230). -/
def execSkp (x : Reg) (s : State) : Result := s.withKeyIndex x (fun k => .next (s.skipIf (s.keyDown k)))

/-- `ExA1`: skip when the key that V[x] names is not pressed (R231). -/
def execSknp (x : Reg) (s : State) : Result := s.withKeyIndex x (fun k => .next (s.skipIf (!s.keyDown k)))

/-- `Fx0A`: no key down, nothing is written and pc stays; else the least key goes to V[x] and pc moves on (R232). -/
def execLdVxK (x : Reg) (s : State) : Result :=
  match s.leastKey with
  | none => .next s
  | some k => .next (s.writeV x (BitVec.ofNat 8 k)).advance

end Sys2Proof.Machine
end

