-- ==== Sys2Proof/Machine/Timer.lean ====
section
/-! DEFINITION. The timer instructions (spec R240 to R243). The tick that closes the step is `State.tick`. -/

namespace Sys2Proof.Machine

/-- `Fx07`: `V[x] <- delay_timer`, the value before the tick of this step (R240). -/
def execLdVxDt (x : Reg) (s : State) : Result := .next (s.writeV x s.delayTimer).advance

/-- `Fx15`: `delay_timer <- V[x]` (R241). -/
def execLdDtVx (x : Reg) (s : State) : Result := .next { s with delayTimer := s.readV x }.advance

/-- `Fx18`: `sound_timer <- V[x]` (R242). -/
def execLdStVx (x : Reg) (s : State) : Result := .next { s with soundTimer := s.readV x }.advance

end Sys2Proof.Machine
end

