-- ==== Sys2Proof/Machine/Transfer.lean ====
section
/-! DEFINITION. The index-register and memory-transfer instructions (spec R190 to R196). -/

namespace Sys2Proof.Machine

/-- `Annn`: `I <- nnn` (R190). -/
def execLdINnn (nnn : Word) (s : State) : Result := .next (s.setI nnn).advance

/-- `Fx1E`: first VF is 1 when I + vx > 0xFFF, then `I <- (I + vx) mod 65536` (R191, R126). -/
def execAddIVx (x : Reg) (s : State) : Result :=
  .next ((s.writeFlag (indexRangeFlag s.I (s.readV x))).setI (s.I + (s.readV x).setWidth 16)).advance

/-- `Fx29`: `I <- vx * 5`, the whole byte, not masked (R192). -/
def execLdFVx (x : Reg) (s : State) : Result := .next (s.setI (BitVec.ofNat 16 ((s.readV x).toNat * 5))).advance

/-- `Fx33`: the three decimal digits of vx at I, I+1, I+2; I is unchanged (R193). -/
def execLdBVx (x : Reg) (s : State) : Result :=
  s.withAccess 3 (.next (s.storeAtI (decimalDigits (s.readV x))).advance)

/-- `Fx55`: V0 to Vx at I to I+x, then `I <- I + x + 1` (R194). -/
def execLdMiVx (x : Reg) (s : State) : Result :=
  s.withAccess (x.val + 1) (.next ((s.storeAtI (s.regBlock x)).stepI x).advance)

/-- `Fx65`: V0 to Vx from I to I+x, then `I <- I + x + 1` (R195). -/
def execLdVxMi (x : Reg) (s : State) : Result :=
  s.withAccess (x.val + 1) (.next ((s.loadBlock x).stepI x).advance)

end Sys2Proof.Machine
end

