-- ==== Sys2Proof/Machine/Cycle.lean ====
section
/-! DEFINITION. The phases of a step (spec R120): range test, fetch, decode, dispatch, execute; then the tick. -/

namespace Sys2Proof.Machine

/-- Phase 4 and 5 on a state whose `opcode` latch holds the fetched word `w`: UnknownOpcode, or the instruction's meaning
(R120, R251). -/
def dispatchWord (w : Word) (s : State) : Result :=
  match decode w with
  | .unknown _ => s.raise .unknownOpcode
  | .instr i => exec i s

/-- Phases 1 to 5 (R120): PcOutOfRange before the fetch, else fetch, latch, decode, dispatch and execute. -/
def executePhase (s : State) : Result :=
  if s.canFetch then dispatchWord s.fetchWord (s.latchOpcode s.fetchWord) else s.raise .pcOutOfRange

/-- Phase 6 (R120): the tick, of a step that has not faulted (R129), and the end of the step's input. -/
def closeStep : Result → Result
  | .next t => .next t.tick.endInput
  | .fault f => .fault f
  | .refused r => .refused r

/-- `s` with the word `w` stored where the coming step fetches: at pc, high byte first. From a pc that cannot be fetched
from, pc is first put at 0x200 (notes/assumptions/20.md). -/
def State.placeWord (s : State) (w : Word) : State :=
  let t := if s.canFetch then s else s.jumpTo 0x200
  { t with mem := t.mem.writeBytes t.pc.toNat [hiByte w, loByte w] }

end Sys2Proof.Machine
end

