-- ==== Sys2Proof/Machine/Step.lean ====
section
/-! DEFINITION. One step of the machine (spec R120), and placing the instruction the coming step fetches. -/

namespace Sys2Proof.Machine

/-- One fetch, decode, dispatch, execute and tick cycle (R5, R120). The spec's `step(M, rnd)` is `step (M.present rnd)`
(R130, R281). -/
def step (s : State) : Host.Outcome State Fault Refusal := closeStep (executePhase s)

/-- `s` with the instruction whose bits are `w` stored at pc, so that the very next step fetches and runs it (an instruction
is one 16-bit word whatever `nbits` says, R90, R102). -/
def State.withFetchWord (s : State) (_nbits w : Nat) : State := s.placeWord (BitVec.ofNat 16 w)

end Sys2Proof.Machine
end

