-- ==== Sys2Proof/Machine/HostOps.lean ====
section
/-! DEFINITION. The host interface (spec R276 to R283, R290, R296): the nine operations the core exposes, all atomic and all
between steps (R70), and the sound edges of a step (R273). -/

namespace Sys2Proof.Machine

/-! ## The operations on a machine -/

/-- `initialize`: every element at its reset value (R290). It cannot fail and keeps nothing of the Machine; the `rnd` input
of the coming steps is no part of the Machine and goes on (notes/assumptions/15.md). -/
def State.initialized (s : State) : State := { State.reset with rndIn := s.rndIn, rndIndex := s.rndIndex }

/-- `load_program(name, bytes)`: OversizeImage above 3584 bytes, else `mem[0x200 + i] <- bytes[i]` and nothing else (R296,
R257). `name` has no effect (R296, notes/assumptions/25.md). -/
def State.loadProgram (s : State) (_name : String) (bytes : List Byte) : Result :=
  if bytes.length > Config.maxImage then .fault (.oversizeImage bytes.length)
  else .next { s with mem := s.mem.writeBytes Config.programBase bytes }

/-- `set_key(index, pressed)`: `key[index] <- pressed` for an index from 0 to 15; any other index is refused (R277). -/
def State.setKey (s : State) (index : Nat) (pressed : Bool) : Result :=
  if index < 16 then
    .next { s with key := if pressed then s.key ||| BitVec.twoPow 16 index else s.key &&& ~~~(BitVec.twoPow 16 index) }
  else .refused (.notAKey index)

/-- `draw_pending()`: the draw flag; nothing changes (R278). -/
def State.drawPending (s : State) : Bool := s.drawFlag

/-- `clear_draw_flag()`: `drawFlag <- 0` and nothing else (R279). -/
def State.clearDrawFlag (s : State) : State := { s with drawFlag := false }

/-- The cell in column `col` of row `row` of the framebuffer: `gfx[64 * row + col]` (R40, R280). -/
def State.pixel (s : State) (row col : Nat) : Bool := cellAt s.gfx (64 * row + col)

/-- The level signal a tone generator gates on: `sound_timer != 0` (R272). -/
def State.soundActive (s : State) : Bool := s.soundTimer != 0

/-! ## The interface as one alphabet -/

/-- An operation of the host (R276). -/
inductive HostOp where
  /-- `initialize` (R290). -/
  | initializeMachine
  /-- `load_program` (R296). -/
  | loadProgram (name : String) (bytes : List Byte)
  /-- `step` with the input `rnd` (R120, R281). -/
  | stepWith (rnd : Byte)
  /-- `draw_pending` (R278). -/
  | drawPending
  /-- `clear_draw_flag` (R279). -/
  | clearDrawFlag
  /-- `set_key` (R277). -/
  | setKey (index : Nat) (pressed : Bool)
  /-- The framebuffer read (R280). -/
  | readFramebuffer
  /-- The sound-timer read (R282). -/
  | readSoundTimer
  /-- The opcode read (R283). -/
  | readOpcode
  deriving DecidableEq, Repr

/-- What an operation returns to the host. -/
inductive HostReply where
  /-- The operation is done and returns nothing more (Ok, R11). -/
  | done
  | flag (b : Bool)
  | frame (g : Gfx)
  | timer (t : Byte)
  | word (w : Word)
  /-- The typed failure of a `step` or a `load_program` (R131, R258). -/
  | fault (f : Fault)
  /-- The model has no transition: the spec gives the operation no meaning there. -/
  | refused (r : Refusal)
  deriving DecidableEq, Repr

/-- The reply to an operation that can fail, and the machine after it; a failure other than a step's changes nothing
(R258). -/
def replyOf (s : State) : Result → HostReply × State
  | .next t => (.done, t)
  | .fault f => (.fault f, s)
  | .refused r => (.refused r, s)

/-- The reply to a step from `s`, and the machine after it: after a fault the caller holds `s.afterFault f` (R128, R258). -/
def replyOfStep (s : State) : Result → HostReply × State
  | .next t => (.done, t)
  | .fault f => (.fault f, s.afterFault f)
  | .refused r => (.refused r, s)

/-- An operation on an initialised machine. -/
def hostOp (op : HostOp) (s : State) : HostReply × State :=
  match op with
  | .initializeMachine => (.done, s.initialized)
  | .loadProgram name bytes => replyOf s (s.loadProgram name bytes)
  | .stepWith rnd => replyOfStep (s.present rnd) (step (s.present rnd))
  | .drawPending => (.flag s.drawPending, s)
  | .clearDrawFlag => (.done, s.clearDrawFlag)
  | .setKey index pressed => replyOf s (s.setKey index pressed)
  | .readFramebuffer => (.frame s.gfx, s)
  | .readSoundTimer => (.timer s.soundTimer, s)
  | .readOpcode => (.word s.opcode, s)

/-- An operation before the first `initialize`, when there is no machine yet: only `initialize` has a meaning (R35, R291,
notes/assumptions/5.md). -/
def hostOpBeforeInit : HostOp → HostReply × Option State
  | .initializeMachine => (.done, some State.reset)
  | .loadProgram _ _ => (.refused .notInitialized, none)
  | .stepWith _ => (.refused .notInitialized, none)
  | .drawPending => (.refused .notInitialized, none)
  | .clearDrawFlag => (.refused .notInitialized, none)
  | .setKey _ _ => (.refused .notInitialized, none)
  | .readFramebuffer => (.refused .notInitialized, none)
  | .readSoundTimer => (.refused .notInitialized, none)
  | .readOpcode => (.refused .notInitialized, none)

/-- An operation of the host on the core, `none` before the first `initialize`. -/
def hostInterface (op : HostOp) : Option State → HostReply × Option State
  | none => hostOpBeforeInit op
  | some s => ((hostOp op s).1, some (hostOp op s).2)

/-! ## Sound edges (R273) -/

/-- `beep_start`: st0 = 0 and st1 != 0, where st0 is the sound timer before the step and st1 its value after the execute
phase and before the tick (R273). False of a step that faults. -/
def State.beepStart (s : State) : Bool :=
  match executePhase s with
  | .next t => s.soundTimer == 0 && t.soundTimer != 0
  | .fault _ => false
  | .refused _ => false

/-- `beep_stop`: st1 != 0 and st2 = 0, or st0 != 0 and st1 = 0, where st2 is the value after the tick (R273,
notes/assumptions/30.md). False of a step that faults. -/
def State.beepStop (s : State) : Bool :=
  match executePhase s with
  | .next t => (t.soundTimer != 0 && t.tick.soundTimer == 0) || (s.soundTimer != 0 && t.soundTimer == 0)
  | .fault _ => false
  | .refused _ => false

end Sys2Proof.Machine
end

