-- ==== Sys2Proof/Safety.lean ====
section
/-! DEFINITION. The terms in which claims speak of a run: a fault-free step, the invariant of reachable machines (spec R39),
reachability through the host interface (R132) and a parked program (R132). -/

namespace Sys2Proof.Machine

/-- The step from `s` has the outcome Ok (R11). -/
def State.stepsOk (s : State) : Prop := ∃ t, step s = .next t

/-- The invariant of R39, with the canonical form of the model's memory. The other bounds of R39 hold by the types of the
fields: `sp` is 0 to 16, a V register and a timer are bytes, `I` is a 16-bit word. -/
structure State.Inv (s : State) : Prop where
  /-- The memory is in its canonical form. -/
  memWf : s.mem.wf = true
  /-- `pc` is at most 0x10FE (R24, R39). -/
  pcBound : s.pc.toNat ≤ 0x10FE
  /-- Every stack slot is at most 0x1000 (R39). -/
  stackBound : ∀ i : Fin 16, (s.stack.get i).toNat ≤ 0x1000

/-- A machine that the operations of R276 can bring about, the first of them `initialize` (R132, R297), steps on a free
`rnd` included. -/
inductive Reachable : State → Prop where
  /-- The first `initialize` (R297). -/
  | boot : Reachable State.reset
  /-- Any operation of the host, a step that faults included. -/
  | host (s : State) (op : HostOp) : Reachable s → Reachable (hostOp op s).2
  /-- A successful step in which the host has presented no byte. -/
  | free (s t : State) : Reachable s → step s = .next t → Reachable t

/-- `k` successful steps lead from `s` to `t` ("after k steps", R132). -/
inductive StepsTo : Nat → State → State → Prop where
  | refl (s : State) : StepsTo 0 s s
  | cons (k : Nat) (s t u : State) : step s = .next t → StepsTo k t u → StepsTo (k + 1) s u

/-- The program is parked at `a`: pc is `a` and the word there is a jump to `a` itself (R132). -/
def State.parkedAt (s : State) (a : Word) : Prop :=
  a.toNat ≤ 0xFFE ∧ s.pc = a ∧ s.mem.readWord a.toNat = 0x1000 ||| a

end Sys2Proof.Machine
end

