-- ==== Sys2Proof/Certificates/Slice0/Obligations.lean ====
section
/-! DEFINITION. The statements about the model, one def Obligations.<Name> : Prop each, and the few terms they are written
in. They speak of register values as natural numbers, so that they are not the model's own bit-vector text again. Where a
statement says that the rest of the state is unchanged, the model's own input fields are among it: no instruction touches them
(notes/assumptions/2.md). -/

namespace Sys2Proof.Claims

open Sys2Proof Sys2Proof.Machine

/-- The value of V[j] as a number from 0 to 255. -/
def val (s : State) (j : Reg) : Nat := (s.readV j).toNat

/-- `exec i s` answers the next state in which V[j] holds `regs j` for every j, pc is `pc`, and every other element of the
state, all of memory included, is as in `s`. -/
def SetsRegs (i : Instr) (s : State) (regs : Reg → Nat) (pc : Word) : Prop :=
  ∃ t, exec i s = .next t ∧ (∀ j, val t j = regs j) ∧ t = { s with V := t.V, pc := pc }

/-- The word at pc: `(mem[pc] << 8) | mem[pc+1]` (R90). -/
def wordAtPc (s : State) : Word :=
  BitVec.ofNat 16 ((s.mem.read s.pc.toNat).toNat * 256 + (s.mem.read (s.pc.toNat + 1)).toNat)

/-- The coming step fetches the instruction `i`. -/
def fetches (s : State) (i : Instr) : Prop := decode s.fetchWord = .instr i

/-- The state after an Ok step whose execute phase answered `t`: both timers `max(t - 1, 0)`, the input used up. -/
def ticked (t : State) : State :=
  { t with
    delayTimer := BitVec.ofNat 8 (t.delayTimer.toNat - 1)
    soundTimer := BitVec.ofNat 8 (t.soundTimer.toNat - 1)
    rndIn := none
    rndIndex := t.rndIndex + 1 }

/-- The Unknown words, family by family (the table of R99). -/
def UnknownByFamily (w : Word) : Prop :=
  (w.toNat / 0x1000 = 0x0 ∧ w ≠ 0x00E0 ∧ w ≠ 0x00EE) ∨
  (w.toNat / 0x1000 = 0x5 ∧ w.toNat % 16 ≠ 0) ∨
  (w.toNat / 0x1000 = 0x8 ∧ w.toNat % 16 ∈ [0x8, 0x9, 0xA, 0xB, 0xC, 0xD, 0xF]) ∨
  (w.toNat / 0x1000 = 0x9 ∧ w.toNat % 16 ≠ 0) ∨
  (w.toNat / 0x1000 = 0xE ∧ w.toNat % 256 ∉ [0x9E, 0xA1]) ∨
  (w.toNat / 0x1000 = 0xF ∧ w.toNat % 256 ∉ [0x07, 0x0A, 0x15, 0x18, 0x1E, 0x29, 0x33, 0x55, 0x65])

/-- The one fault of the execute phase of an instruction fetched as the word `w`, if it raises one (R259, R252, R253, R255,
R256). -/
def executeFault (i : Instr) (w : Word) (s : State) : Option Fault :=
  match i with
  | .ret => if s.sp.val = 0 then some (.stackUnderflow s.pc w) else none
  | .call _ => if s.sp.val = 16 then some (.stackOverflow s.pc w) else none
  | .drw _ _ n =>
    if 0 < n ∧ s.I.toNat + (n - 1) > 0xFFF then some (.memOutOfRange s.pc w (max s.I.toNat 0x1000)) else none
  | .ldBVx _ => if s.I.toNat + 2 > 0xFFF then some (.memOutOfRange s.pc w (max s.I.toNat 0x1000)) else none
  | .ldMiVx x => if s.I.toNat + x.val > 0xFFF then some (.memOutOfRange s.pc w (max s.I.toNat 0x1000)) else none
  | .ldVxMi x => if s.I.toNat + x.val > 0xFFF then some (.memOutOfRange s.pc w (max s.I.toNat 0x1000)) else none
  | .skp x => if val s x > 15 then some (.keyIndexOutOfRange s.pc w (s.readV x)) else none
  | .sknp x => if val s x > 15 then some (.keyIndexOutOfRange s.pc w (s.readV x)) else none
  | _ => none

/-- The fault of the step from `s`, if it raises one: the first met in the order of the phases (R259). -/
def stepFault (s : State) : Option Fault :=
  if s.pc.toNat > 0xFFE then some (.pcOutOfRange s.pc s.opcode)
  else
    match decode (wordAtPc s) with
    | .unknown _ => some (.unknownOpcode s.pc (wordAtPc s))
    | .instr i => executeFault i (wordAtPc s) s

/-- The instructions whose pc is not simply pc + 2: four transfers, six skips and `Fx0A` (R178). -/
def ControlsPc (i : Instr) : Prop :=
  match i with
  | .ret => True
  | .jp _ => True
  | .call _ => True
  | .jpV0 _ => True
  | .seVxKk _ _ => True
  | .sneVxKk _ _ => True
  | .seVxVy _ _ => True
  | .sneVxVy _ _ => True
  | .skp _ => True
  | .sknp _ => True
  | .ldVxK _ => True
  | _ => False

/-- The six skips (R178). -/
def IsSkip (i : Instr) : Prop :=
  match i with
  | .seVxKk _ _ => True
  | .sneVxKk _ _ => True
  | .seVxVy _ _ => True
  | .sneVxVy _ _ => True
  | .skp _ => True
  | .sknp _ => True
  | _ => False

/-- The seven instructions that write VF as a side effect (R22). -/
def WritesFlag (i : Instr) : Prop :=
  match i with
  | .addVxVy _ _ => True
  | .subVxVy _ _ => True
  | .shrVx _ _ => True
  | .subnVxVy _ _ => True
  | .shlVx _ _ => True
  | .addIVx _ => True
  | .drw _ _ _ => True
  | _ => False

/-- The instructions that name V[j] as a destination (R21, R140 to R151, R195, R232, R240). -/
def NamesDestination (i : Instr) (j : Reg) : Prop :=
  match i with
  | .ldVxKk x _ => j = x
  | .addVxKk x _ => j = x
  | .ldVxVy x _ => j = x
  | .orVxVy x _ => j = x
  | .andVxVy x _ => j = x
  | .xorVxVy x _ => j = x
  | .addVxVy x _ => j = x
  | .subVxVy x _ => j = x
  | .shrVx x _ => j = x
  | .subnVxVy x _ => j = x
  | .shlVx x _ => j = x
  | .rnd x _ => j = x
  | .ldVxDt x => j = x
  | .ldVxK x => j = x
  | .ldVxMi x => j ≤ x
  | _ => False

/-- The sprite pixel in row r and column offset c is set: bit 7 - c of `mem[I + r]` (the set S of R214). -/
def SpritePixel (s : State) (n r c : Nat) : Prop :=
  r < n ∧ c < 8 ∧ (s.mem.read (s.I.toNat + r)).getLsbD (7 - c) = true

/-- `cell(r, c) = 64 * ((vy + r) mod 32) + ((vx + c) mod 64)` (R214). -/
def spriteCell (s : State) (x y : Reg) (r c : Nat) : Nat := 64 * ((val s y + r) % 32) + (val s x + c) % 64

/-- Cell j lies in the image of S under `cell` (R214). -/
def UnderSprite (s : State) (x y : Reg) (n j : Nat) : Prop :=
  ∃ r c, SpritePixel s n r c ∧ spriteCell s x y r c = j

/-- `k` successful steps, none of them an `Fx15`, lead from `s` to `t`. -/
inductive QuietSteps : Nat → State → State → Prop where
  | refl (s : State) : QuietSteps 0 s s
  | cons (k : Nat) (s t u : State) :
      (∀ x, ¬ fetches s (.ldDtVx x)) → step s = .next t → QuietSteps k t u → QuietSteps (k + 1) s u

/-- An outcome with the key latch of its next state set to `k`. -/
def withKeys (k : BitVec 16) : Result → Result
  | .next t => .next { t with key := k }
  | .fault f => .fault f
  | .refused r => .refused r

/-- An outcome with the timers of its next state set to `d` and `e`. -/
def withTimers (d e : Byte) : Result → Result
  | .next t => .next { t with delayTimer := d, soundTimer := e }
  | .fault f => .fault f
  | .refused r => .refused r

/-- An outcome with the memory of its next state set to `m`. -/
def withMem (m : Memory) : Result → Result
  | .next t => .next { t with mem := m }
  | .fault f => .fault f
  | .refused r => .refused r

end Sys2Proof.Claims

open Sys2Proof Sys2Proof.Machine Sys2Proof.Claims

/-! ## Encoding -/

/-- Section 6 of 30_encoding.md: encoding is the inverse of decoding, for every instruction and every value of every
operand, on words and on bytes in memory order. How the operands are typed, with their ranges in `wellFormed`, is the
model's choice (notes/assumptions/19.md). -/
def Obligations.DecodeOfEncodeIsTheInstruction : Prop :=
  ∀ (i : Instr) (rest : List Byte), i.wellFormed = true →
    decode (encode i) = .instr i ∧ decodeBytes (encodeBytes i ++ rest) = .instr i rest

/-- The other direction: a word that decodes is the encoding of what it decodes to, and that is well-formed. It holds
under strict matching, the choice of D2 (notes/assumptions/6.md): with a loose dispatcher 0x5121 would decode to an
instruction whose word is 0x5120. How the operands are typed, with their ranges in `wellFormed`, is the model's choice
(19.md). -/
def Obligations.EncodeOfDecodeIsTheWord : Prop :=
  ∀ (w : Word) (i : Instr), decode w = .instr i → i.wellFormed = true ∧ encode i = w

/-- R96: a word is the instruction of a row when `w & mask == match`. Strict matching, in which every fixed digit is
matched (the masks 0xFFFF and 0xF00F), is the choice of D2 (notes/assumptions/6.md). -/
def Obligations.DecoderIsTheOpcodeMap : Prop :=
  ∀ w : Word,
    (∀ i, decode w = .instr i → i.row ∈ opcodeMap ∧ i.row.matchesWord w = true) ∧
    (∀ r ∈ opcodeMap, r.matchesWord w = true → ∃ i, decode w = .instr i ∧ i.row = r)

/-- "The rows are pairwise disjoint (no word matches two rows)", which R96 marks as the spec's own inference. The masks
are those of strict matching, the choice of D2 (notes/assumptions/6.md). -/
def Obligations.NoWordMatchesTwoRows : Prop :=
  ∀ w : Word, ∀ r ∈ opcodeMap, ∀ r' ∈ opcodeMap, r.matchesWord w = true → r'.matchesWord w = true → r = r'

/-- R251 with the families of R99: a word raises UnknownOpcode exactly when it is in the table of Unknown words, and the
record holds the word. That decoding is strict is the choice of D2 (notes/assumptions/6.md). The record is the choice of
D6 (24.md). -/
def Obligations.UnknownWordsFaultByFamily : Prop :=
  ∀ s : State, s.pc.toNat ≤ 0xFFE →
    (UnknownByFamily (wordAtPc s) ↔ step s = .fault (.unknownOpcode s.pc (wordAtPc s)))

/-- Ten words written out from R96, of eight of the sixteen families, and what they decode to. That 0x5121 and 0x0000 are
no instructions is strict matching, the choice of D2 (notes/assumptions/6.md). -/
def Obligations.SampleWordsDecode : Prop :=
  decode 0x00E0 = .instr .cls ∧ decode 0x00EE = .instr .ret ∧ decode 0x1ABC = .instr (.jp 0xABC) ∧
  decode 0x3344 = .instr (.seVxKk 3 0x44) ∧ decode 0x8014 = .instr (.addVxVy 0 1) ∧
  decode 0x85A6 = .instr (.shrVx 5 10) ∧ decode 0xA2F0 = .instr (.ldINnn 0x2F0) ∧
  decode 0xD015 = .instr (.drw 0 1 5) ∧ decode 0xE3A1 = .instr (.sknp 3) ∧ decode 0xF265 = .instr (.ldVxMi 2) ∧
  decode 0x5121 = .unknown 0x5121 ∧ decode 0x0000 = .unknown 0x0000

/-! ## The step and its faults -/

/-- R120: the phases of a step, in this order: range test, fetch, decode, dispatch, execute, tick. When the word at pc
decodes to an instruction, the step is `exec` of it on the state with the word latched, closed by `ticked`. PcOutOfRange
is the choice of D7 (notes/assumptions/11.md), and the input fields that `ticked` uses up are the model's own choice
(2.md). That every Ok step ticks, one in which Fx0A waits included, rests on D18 and C11 (21.md). The records of the two
faults are the choice of D6 (24.md). -/
def Obligations.StepIsFetchDecodeExecuteTick : Prop :=
  ∀ s : State,
    (s.pc.toNat > 0xFFE → step s = .fault (.pcOutOfRange s.pc s.opcode)) ∧
    (s.pc.toNat ≤ 0xFFE →
      (∀ w, decode (wordAtPc s) = .unknown w → step s = .fault (.unknownOpcode s.pc (wordAtPc s))) ∧
      (∀ i, decode (wordAtPc s) = .instr i →
        (∀ t, exec i { s with opcode := wordAtPc s } = .next t → step s = .next (ticked t)) ∧
        (∀ f, exec i { s with opcode := wordAtPc s } = .fault f → step s = .fault f)))

/-- R259: a step raises at most one fault, the first met in the order of the phases; R250 to R256 say which. A step with
no fault has a next state, and no step is refused. The order is the choice of D31, the faults for pc, addresses and key
numbers out of range those of D7 to D9 (notes/assumptions/11.md, 27.md). Strict matching is the choice of D2 (6.md), the
record that of D6 (24.md). -/
def Obligations.StepFaultIsTheFirstInPhaseOrder : Prop :=
  ∀ s : State,
    (∀ f, step s = .fault f ↔ stepFault s = some f) ∧
    ((∃ t, step s = .next t) ↔ stepFault s = none) ∧
    (∀ r, step s ≠ .refused r)

/-- The codes and the info column of the fault table (R250); the numbers are the spec's own choice, D6
(notes/assumptions/24.md). -/
def Obligations.FaultCodesAndInfo : Prop :=
  ∀ (pc w : Word) (a : Nat) (b : Byte),
    ((Fault.unknownOpcode pc w).code = 1 ∧ (Fault.unknownOpcode pc w).info = some w.toNat) ∧
    ((Fault.stackOverflow pc w).code = 2 ∧ (Fault.stackOverflow pc w).info = none) ∧
    ((Fault.stackUnderflow pc w).code = 3 ∧ (Fault.stackUnderflow pc w).info = none) ∧
    ((Fault.oversizeImage a).code = 4 ∧ (Fault.oversizeImage a).info = some a) ∧
    ((Fault.pcOutOfRange pc w).code = 5 ∧ (Fault.pcOutOfRange pc w).info = some pc.toNat) ∧
    ((Fault.memOutOfRange pc w a).code = 6 ∧ (Fault.memOutOfRange pc w a).info = some a) ∧
    ((Fault.keyIndexOutOfRange pc w b).code = 7 ∧ (Fault.keyIndexOutOfRange pc w b).info = some b.toNat)

/-- R128: after a faulting step the machine is as before but for the `opcode` latch, which holds the fetched word when
there was a fetch; and stepping again, whatever the keys and the random byte then are, raises the same fault. This is the
choice of D5 (notes/assumptions/26.md); the input fields are the model's own (3.md). The fault for a pc out of range is
the choice of D7 (11.md). That the random byte is an input of the step is the choice of D16 (2.md). -/
def Obligations.FaultLeavesTheMachineAndRecurs : Prop :=
  ∀ (s : State) (f : Fault), step s = .fault f →
    s.afterFault f =
      { s with
        opcode := if s.pc.toNat > 0xFFE then s.opcode else wordAtPc s
        rndIn := none
        rndIndex := s.rndIndex + 1 } ∧
    ∀ (k : BitVec 16) (r : Option Byte), step { s.afterFault f with key := k, rndIn := r } = .fault f

/-- R255: when exactly the four instructions that access memory raise MemOutOfRange, and with which record. The fault is
the choice of D8 (notes/assumptions/11.md). The record is the choice of D6 (24.md). -/
def Obligations.MemoryAccessFaultsOutOfRange : Prop :=
  ∀ (s : State) (x y : Reg) (n : Nat) (f : Fault),
    (exec (.drw x y n) s = .fault f ↔
      (0 < n ∧ s.I.toNat + n - 1 > 0xFFF) ∧ f = .memOutOfRange s.pc s.opcode (max s.I.toNat 0x1000)) ∧
    (exec (.ldBVx x) s = .fault f ↔
      s.I.toNat + 2 > 0xFFF ∧ f = .memOutOfRange s.pc s.opcode (max s.I.toNat 0x1000)) ∧
    (exec (.ldMiVx x) s = .fault f ↔
      s.I.toNat + x.val > 0xFFF ∧ f = .memOutOfRange s.pc s.opcode (max s.I.toNat 0x1000)) ∧
    (exec (.ldVxMi x) s = .fault f ↔
      s.I.toNat + x.val > 0xFFF ∧ f = .memOutOfRange s.pc s.opcode (max s.I.toNat 0x1000))

/-! ## Rules of the whole machine -/

/-- The write entries of the instruction column of the access matrix (R36): an element an instruction changes is one the
matrix lets it write. That 00EE changes no slot, though the matrix would let it, is the choice of D14: a popped slot keeps its
content (R30, notes/assumptions/22.md). The input fields are the model's own choice (2.md). -/
def Obligations.InstructionsWriteOnlyWhatTheMatrixAllows : Prop :=
  ∀ (i : Instr) (s t : State), exec i s = .next t →
    (t.mem ≠ s.mem → ∃ x, i = .ldBVx x ∨ i = .ldMiVx x) ∧
    (t.I ≠ s.I → (∃ nnn, i = .ldINnn nnn) ∨ ∃ x, i = .addIVx x ∨ i = .ldFVx x ∨ i = .ldMiVx x ∨ i = .ldVxMi x) ∧
    (t.stack ≠ s.stack → ∃ nnn, i = .call nnn) ∧
    (t.sp ≠ s.sp → i = .ret ∨ ∃ nnn, i = .call nnn) ∧
    t.key = s.key ∧
    (t.gfx ≠ s.gfx → i = .cls ∨ ∃ x y n, i = .drw x y n) ∧
    (t.delayTimer ≠ s.delayTimer → ∃ x, i = .ldDtVx x) ∧
    (t.soundTimer ≠ s.soundTimer → ∃ x, i = .ldStVx x) ∧
    (t.drawFlag ≠ s.drawFlag → t.drawFlag = true ∧ (i = .cls ∨ ∃ x y n, i = .drw x y n)) ∧
    t.opcode = s.opcode ∧ t.rndIn = s.rndIn ∧ t.rndIndex = s.rndIndex

/-- R21 and R22: an instruction changes no V register but those it names as a destination, and VF when it is one of the
seven that write the flag. -/
def Obligations.RegistersChangeOnlyAsNamed : Prop :=
  ∀ (i : Instr) (s t : State) (j : Reg), exec i s = .next t →
    t.readV j ≠ s.readV j → NamesDestination i j ∨ (WritesFlag i ∧ j = VF)

/-- R124: who advances pc by exactly 2; a skip adds 4 or 2, and what it does depends on no byte of memory. The spec marks
the last clause as its own inference. -/
def Obligations.PcAdvancesByTwoAndSkipsByFour : Prop :=
  ∀ (i : Instr) (s t : State), exec i s = .next t →
    (¬ ControlsPc i → t.pc = s.pc + 2) ∧
    (IsSkip i → (t.pc = s.pc + 4 ∨ t.pc = s.pc + 2) ∧
      ∀ m : Memory, exec i { s with mem := m } = withMem m (exec i s))

/-- R130: a step reads the random byte only in `Cxkk`, and the keys only in `Ex9E`, `ExA1` and `Fx0A`. That the random byte
is an input of the step is the choice of D16 (notes/assumptions/2.md). -/
def Obligations.StepReadsItsInputsOnlyWhereStated : Prop :=
  (∀ (s : State) (r r' : Byte), (∀ x kk, ¬ fetches s (.rnd x kk)) → step (s.present r) = step (s.present r')) ∧
  (∀ (s : State) (k : BitVec 16),
    (∀ x, ¬ fetches s (.skp x) ∧ ¬ fetches s (.sknp x) ∧ ¬ fetches s (.ldVxK x)) →
    step { s with key := k } = withKeys k (step s))

/-- R243: every instruction but `Fx07`, `Fx15` and `Fx18` neither reads nor writes a timer; and none reads the sound
timer. -/
def Obligations.OnlyThreeInstructionsTouchATimer : Prop :=
  (∀ (i : Instr) (s : State) (d e : Byte),
    (∀ x, i ≠ .ldVxDt x ∧ i ≠ .ldDtVx x ∧ i ≠ .ldStVx x) →
    exec i { s with delayTimer := d, soundTimer := e } = withTimers d e (exec i s)) ∧
  (∀ (i : Instr) (s t : State) (e : Byte), exec i s = .next t →
    ∃ t', exec i { s with soundTimer := e } = .next t' ∧ { t' with soundTimer := t.soundTimer } = t)

/-- R270: both timers tick together once in every successful step, after the instruction's write, and never in a faulting
step or in a host operation other than a step or `initialize`. The tick of every Ok step and of no other is the choice of D18
(notes/assumptions/21.md), that a faulting step leaves the timers that of D5 (26.md); `afterFault` is the model's (3.md). -/
def Obligations.TimersTickOncePerSuccessfulStep : Prop :=
  (∀ s u : State, step s = .next u →
    (∀ x, fetches s (.ldDtVx x) → u.delayTimer.toNat = val s x - 1) ∧
    ((∀ x, ¬ fetches s (.ldDtVx x)) → u.delayTimer.toNat = s.delayTimer.toNat - 1) ∧
    (∀ x, fetches s (.ldStVx x) → u.soundTimer.toNat = val s x - 1) ∧
    ((∀ x, ¬ fetches s (.ldStVx x)) → u.soundTimer.toNat = s.soundTimer.toNat - 1)) ∧
  (∀ (s : State) (f : Fault), step s = .fault f →
    (s.afterFault f).delayTimer = s.delayTimer ∧ (s.afterFault f).soundTimer = s.soundTimer) ∧
  (∀ (op : HostOp) (s : State), op ≠ .initializeMachine → (∀ r, op ≠ .stepWith r) →
    (hostOp op s).2.delayTimer = s.delayTimer ∧ (hostOp op s).2.soundTimer = s.soundTimer)

/-- The delay of R241: `j` successful steps without an `Fx15` lower the delay timer from v to max(v - j, 0). That every Ok
step ticks once, one in which Fx0A waits included, rests on D18 and C11 (notes/assumptions/21.md). -/
def Obligations.DelayTimerRunsDown : Prop :=
  ∀ (j : Nat) (s t : State), QuietSteps j s t → t.delayTimer.toNat = s.delayTimer.toNat - j

/-- R132 (b): from a parked state every further step succeeds and leaves everything but the timers and the `opcode` latch
unchanged. "Parked" is the spec's own convention, D29; the input fields are the model's own (notes/assumptions/2.md). That
every Ok step ticks once rests on D18 and C11 (21.md). -/
def Obligations.ParkedProgramStaysParked : Prop :=
  ∀ (k : Nat) (s : State) (a : Word), s.parkedAt a →
    ∃ t, StepsTo (k + 1) s t ∧ t.parkedAt a ∧
      t = { s with
        delayTimer := BitVec.ofNat 8 (s.delayTimer.toNat - (k + 1))
        soundTimer := BitVec.ofNat 8 (s.soundTimer.toNat - (k + 1))
        opcode := 0x1000 ||| a
        rndIn := none
        rndIndex := s.rndIndex + (k + 1) }

/-- R273: when the sound edges hold. `st1` is the sound timer after the execute phase and before the tick. The definition
of the edges is the choice of D19 (notes/assumptions/30.md). That every Ok step ends with the tick, one in which Fx0A
waits included, rests on D18 and C11 (21.md). -/
def Obligations.SoundEdgesOfAStep : Prop :=
  ∀ s : State,
    (s.beepStart = true ↔
      s.soundTimer = 0 ∧ (∃ u, step s = .next u) ∧ ∃ x, fetches s (.ldStVx x) ∧ s.readV x ≠ 0) ∧
    (s.beepStop = true ↔
      ∃ u, step s = .next u ∧ ∃ st1 : Byte,
        ((∃ x, fetches s (.ldStVx x) ∧ st1 = s.readV x) ∨ ((∀ x, ¬ fetches s (.ldStVx x)) ∧ st1 = s.soundTimer)) ∧
        ((st1 ≠ 0 ∧ u.soundTimer = 0) ∨ (s.soundTimer ≠ 0 ∧ st1 = 0)))

/-! ## Invariants -/

/-- The invariant holds after `initialize` (R34, R39). The canonical form is the model's (notes/assumptions/17.md). -/
def Obligations.ResetSatisfiesTheBounds : Prop := State.reset.Inv

/-- R39 as an inductive invariant: every successful step from any state with the bounds gives a state with the bounds. The
spec marks the bounds as its own inference. That nothing is fetched from a pc, or stored at an address, out of range is
the choice of D7 and D8 (notes/assumptions/11.md), that pc is not masked that of D15 (28.md), the canonical form the
model's (17.md). -/
def Obligations.StepKeepsTheBounds : Prop := ∀ s t : State, s.Inv → step s = .next t → t.Inv

/-- R39: the bounds hold of every machine reachable from `initialize` by the operations of the host interface, steps that
fault included. The spec marks the bounds as its own inference. It rests on the same choices as StepKeepsTheBounds (D7, D8
and D15, notes/assumptions/11.md, 28.md; 17.md), on D5 for the machine after a fault (3.md, 26.md), on D22 for a load
(25.md), and on D16 for the model's input fields (2.md). -/
def Obligations.ReachableMachinesSatisfyTheBounds : Prop := ∀ s : State, Reachable s → s.Inv

/-- The memory's canonical form is canonical: two memories that read the same at all 4096 addresses are the same. The form
is the model's choice (notes/assumptions/17.md). -/
def Obligations.EqualReadsMeanEqualMemories : Prop :=
  ∀ m m' : Memory, m.wf = true → m'.wf = true → (∀ a < 0x1000, m.read a = m'.read a) → m = m'

/-- R73: the fetch after a step that stored with `Fx55` sees the bytes stored, wherever in the block pc then points. The
spec marks the rule as its own inference. That a store below 0x200 is made is the choice of D13 (notes/assumptions/12.md),
the canonical form the model's (17.md). -/
def Obligations.StoreIsSeenByTheNextFetch : Prop :=
  ∀ (s u : State) (x a b : Reg), s.mem.wf = true → fetches s (.ldMiVx x) → step s = .next u →
    b.val = a.val + 1 → b ≤ x → u.pc.toNat = s.dataAddr a.val →
    u.fetchWord.toNat = val s a * 256 + val s b

/-! ## Arithmetic and logic -/

/-- R140, R141: load an immediate, and add one modulo 256 with no flag. -/
def Obligations.ImmediateLoadAndAdd : Prop :=
  ∀ (s : State) (x : Reg) (kk : Byte),
    SetsRegs (.ldVxKk x kk) s (fun j => if j = x then kk.toNat else val s j) (s.pc + 2) ∧
    SetsRegs (.addVxKk x kk) s (fun j => if j = x then (val s x + kk.toNat) % 256 else val s j) (s.pc + 2)

/-- R142 to R145: copy, or, and, exclusive or; VF is untouched unless it is Vx. -/
def Obligations.CopyAndBitwiseLogic : Prop :=
  ∀ (s : State) (x y : Reg),
    SetsRegs (.ldVxVy x y) s (fun j => if j = x then val s y else val s j) (s.pc + 2) ∧
    SetsRegs (.orVxVy x y) s (fun j => if j = x then val s x ||| val s y else val s j) (s.pc + 2) ∧
    SetsRegs (.andVxVy x y) s (fun j => if j = x then val s x &&& val s y else val s j) (s.pc + 2) ∧
    SetsRegs (.xorVxVy x y) s (fun j => if j = x then val s x ^^^ val s y else val s j) (s.pc + 2)

/-- R146: the sum modulo 256, VF the carry; at x = 0xF the sum stays
(the order of the writes is a choice: D4, C4, notes/assumptions/9.md). -/
def Obligations.AddSetsCarry : Prop :=
  ∀ (s : State) (x y : Reg),
    SetsRegs (.addVxVy x y) s
      (fun j => if j = x then (val s x + val s y) % 256
        else if j = VF then (if val s x + val s y > 255 then 1 else 0) else val s j)
      (s.pc + 2)

/-- R147, R149: the differences modulo 256, VF 1 exactly when the minuend is strictly greater; at x = 0xF the difference
stays (the order of the writes is a choice: D4, notes/assumptions/9.md). -/
def Obligations.SubtractionsSetNotBorrow : Prop :=
  ∀ (s : State) (x y : Reg),
    SetsRegs (.subVxVy x y) s
      (fun j => if j = x then (val s x + 256 - val s y) % 256
        else if j = VF then (if val s x > val s y then 1 else 0) else val s j)
      (s.pc + 2) ∧
    SetsRegs (.subnVxVy x y) s
      (fun j => if j = x then (val s y + 256 - val s x) % 256
        else if j = VF then (if val s y > val s x then 1 else 0) else val s j)
      (s.pc + 2)

/-- R148, R150: shifts by one bit of Vx whatever `y` is, VF the bit shifted out; at x = 0xF the shifted value stays
(the order of the writes is a choice: D4, notes/assumptions/9.md). -/
def Obligations.ShiftsSetTheBitShiftedOut : Prop :=
  ∀ (s : State) (x y : Reg),
    SetsRegs (.shrVx x y) s
      (fun j => if j = x then val s x / 2 else if j = VF then val s x % 2 else val s j) (s.pc + 2) ∧
    SetsRegs (.shlVx x y) s
      (fun j => if j = x then val s x * 2 % 256 else if j = VF then val s x / 128 else val s j) (s.pc + 2)

/-- R151: Vx is the step's random byte masked by kk, for every byte the host may present, and for the free byte of a step in
which it presents none (D16, notes/assumptions/2.md). -/
def Obligations.RandomByteIsMasked : Prop :=
  ∀ (s : State) (x : Reg) (kk r : Byte),
    SetsRegs (.rnd x kk) (s.present r) (fun j => if j = x then r.toNat &&& kk.toNat else val s j) (s.pc + 2) ∧
    SetsRegs (.rnd x kk) s (fun j => if j = x then s.rndByte.toNat &&& kk.toNat else val s j) (s.pc + 2)

/-! ## Control flow -/

/-- R171: a jump sets pc and nothing else. -/
def Obligations.JumpSetsPc : Prop :=
  ∀ (s : State) (nnn : Word), exec (.jp nnn) s = .next { s with pc := nnn }

/-- R177: the computed jump sets pc to the sum of V0 and nnn, and nothing else. That the sum is not masked is the choice
of D15 (notes/assumptions/28.md). That `nnn` stands as a word, with its range as a hypothesis, is the model's choice
(19.md). -/
def Obligations.ComputedJumpAddsV0 : Prop :=
  ∀ (s : State) (nnn : Word), fitsNnn nnn = true →
    ∃ p : Word, p.toNat = val s V0 + nnn.toNat ∧ exec (.jpV0 nnn) s = .next { s with pc := p }

/-- R172: a call writes pc + 2 in the slot sp names, adds 1 to sp and jumps; a full stack faults. The record of the fault
is the choice of D6 (notes/assumptions/24.md). -/
def Obligations.CallPushesTheReturnAddress : Prop :=
  ∀ (s : State) (nnn : Word),
    (s.sp.val < 16 → ∃ t, exec (.call nnn) s = .next t ∧ t.sp.val = s.sp.val + 1 ∧ t.pc = nnn ∧
      (∀ k : Fin 16, t.stack.get k = if k.val = s.sp.val then s.pc + 2 else s.stack.get k) ∧
      t = { s with stack := t.stack, sp := t.sp, pc := t.pc }) ∧
    (s.sp.val = 16 → exec (.call nnn) s = .fault (.stackOverflow s.pc s.opcode))

/-- R170: a return takes 1 from sp and jumps to the word in the slot sp then names, which keeps its content (a choice:
D14, notes/assumptions/22.md); an empty stack faults. The record of the fault is the choice of D6 (24.md). -/
def Obligations.ReturnPopsThePushedAddress : Prop :=
  ∀ s : State,
    (∀ k : Fin 16, s.sp.val = k.val + 1 →
      exec .ret s = .next { s with sp := k.castSucc, pc := s.stack.get k }) ∧
    (s.sp.val = 0 → exec .ret s = .fault (.stackUnderflow s.pc s.opcode))

/-- "`2nnn` then `00EE`": a return from any state that has the stack the call left gives the address after the call
(95_test_vectors.md S6). -/
def Obligations.CallThenReturnComesBack : Prop :=
  ∀ (s : State) (nnn : Word), s.sp.val < 16 →
    ∃ t, exec (.call nnn) s = .next t ∧
      ∀ q : State, q.stack = t.stack → q.sp = t.sp →
        ∃ u, exec .ret q = .next u ∧ u.pc = s.pc + 2 ∧ u.sp = s.sp

/-- R173 to R176: the four register skips write pc and nothing else. -/
def Obligations.RegisterSkips : Prop :=
  ∀ (s : State) (x y : Reg) (kk : Byte),
    exec (.seVxKk x kk) s = .next { s with pc := if val s x = kk.toNat then s.pc + 4 else s.pc + 2 } ∧
    exec (.sneVxKk x kk) s = .next { s with pc := if val s x ≠ kk.toNat then s.pc + 4 else s.pc + 2 } ∧
    exec (.seVxVy x y) s = .next { s with pc := if val s x = val s y then s.pc + 4 else s.pc + 2 } ∧
    exec (.sneVxVy x y) s = .next { s with pc := if val s x ≠ val s y then s.pc + 4 else s.pc + 2 }

/-! ## Index register and memory transfer -/

/-- R190: I is nnn. -/
def Obligations.IndexIsLoaded : Prop :=
  ∀ (s : State) (nnn : Word), exec (.ldINnn nnn) s = .next { s with I := nnn, pc := s.pc + 2 }

/-- R192: I is five times the whole byte Vx; that it is not masked to a digit is the choice of D27
(notes/assumptions/28.md). -/
def Obligations.FontAddressIsLoaded : Prop :=
  ∀ (s : State) (x : Reg),
    ∃ i : Word, i.toNat = val s x * 5 ∧ exec (.ldFVx x) s = .next { s with I := i, pc := s.pc + 2 }

/-- R191: I grows by Vx modulo 65536, and VF is 1 exactly when the unbounded sum exceeds 0xFFF. That I is not masked is the
choice of D15 and D30 (notes/assumptions/28.md). That at x = 0xF the addend is the old VF, and VF then receives the flag, is
the order of reads and writes of R126, the choice of D4 (notes/assumptions/9.md). -/
def Obligations.AddToIndexSetsTheRangeFlag : Prop :=
  ∀ (s : State) (x : Reg), ∃ t, exec (.addIVx x) s = .next t ∧
    t.I.toNat = (s.I.toNat + val s x) % 65536 ∧
    (∀ j, val t j = if j = VF then (if s.I.toNat + val s x > 0xFFF then 1 else 0) else val s j) ∧
    t = { s with V := t.V, I := t.I, pc := s.pc + 2 }

/-- R193: the three decimal digits of Vx at I, I+1 and I+2, every other byte and everything else unchanged; out of range
it faults, by the choice of D8 (notes/assumptions/11.md). That addresses below 0x200 are written too is the choice of D13
(12.md), the record that of D6 (24.md), the canonical form the model's (17.md). -/
def Obligations.DecimalDigitsAreStored : Prop :=
  ∀ (s : State) (x : Reg),
    (s.dataAddr 2 ≤ 0xFFF → ∃ t, exec (.ldBVx x) s = .next t ∧
      (s.mem.wf = true → (t.mem.read (s.dataAddr 0)).toNat = val s x / 100 ∧
        (t.mem.read (s.dataAddr 1)).toNat = val s x / 10 % 10 ∧
        (t.mem.read (s.dataAddr 2)).toNat = val s x % 10) ∧
      (∀ a, a < s.dataAddr 0 ∨ s.dataAddr 2 < a → t.mem.read a = s.mem.read a) ∧
      t = { s with mem := t.mem, pc := s.pc + 2 }) ∧
    (s.dataAddr 2 > 0xFFF → exec (.ldBVx x) s = .fault (.memOutOfRange s.pc s.opcode (max s.I.toNat 0x1000)))

/-- R194: V0 to Vx at I to I+x, I moved past the block, every other byte and everything else unchanged; out of range it
faults, by the choice of D8 (notes/assumptions/11.md). That addresses below 0x200 are written too is the choice of D13
(12.md), that I is not masked at 0x1000 that of D15 (28.md), the record that of D6 (24.md), the canonical form the model's
(17.md). -/
def Obligations.RegisterBlockIsStored : Prop :=
  ∀ (s : State) (x : Reg),
    (s.dataAddr x.val ≤ 0xFFF → ∃ t, exec (.ldMiVx x) s = .next t ∧
      t.I.toNat = (s.I.toNat + x.val + 1) % 65536 ∧
      (s.mem.wf = true → ∀ j : Reg, j ≤ x → t.mem.read (s.dataAddr j.val) = s.readV j) ∧
      (∀ a, a < s.dataAddr 0 ∨ s.dataAddr x.val < a → t.mem.read a = s.mem.read a) ∧
      t = { s with mem := t.mem, I := t.I, pc := s.pc + 2 }) ∧
    (s.dataAddr x.val > 0xFFF → exec (.ldMiVx x) s = .fault (.memOutOfRange s.pc s.opcode (max s.I.toNat 0x1000)))

/-- R195: V0 to Vx from I to I+x, the registers above Vx and memory unchanged, I moved past the block; out of range it
faults, by the choice of D8 (notes/assumptions/11.md). That I is not masked at 0x1000 is the choice of D15 (28.md), the
record that of D6 (24.md). -/
def Obligations.RegisterBlockIsLoaded : Prop :=
  ∀ (s : State) (x : Reg),
    (s.dataAddr x.val ≤ 0xFFF → ∃ t, exec (.ldVxMi x) s = .next t ∧
      t.I.toNat = (s.I.toNat + x.val + 1) % 65536 ∧
      (∀ j : Reg, t.readV j = if j ≤ x then s.mem.read (s.dataAddr j.val) else s.readV j) ∧
      t = { s with V := t.V, I := t.I, pc := s.pc + 2 }) ∧
    (s.dataAddr x.val > 0xFFF → exec (.ldVxMi x) s = .fault (.memOutOfRange s.pc s.opcode (max s.I.toNat 0x1000)))

/-- The round trip of 95_test_vectors.md S3: `Fx65` at the I and x of an `Fx55` gives V0 to Vx back, whatever the
registers held in between. That addresses below 0x200 are written too is the choice of D13 (notes/assumptions/12.md), the
canonical form the model's (17.md). -/
def Obligations.StoreThenLoadRestoresTheBlock : Prop :=
  ∀ (s t q : State) (x : Reg), s.mem.wf = true → exec (.ldMiVx x) s = .next t → q.mem = t.mem → q.I = s.I →
    ∃ u, exec (.ldVxMi x) q = .next u ∧ ∀ j : Reg, j ≤ x → u.readV j = s.readV j

/-! ## Graphics -/

/-- R210: every cell clear, the draw flag set, VF and everything else unchanged. -/
def Obligations.ClearScreen : Prop :=
  ∀ s : State, ∃ t, exec .cls s = .next t ∧ (∀ j < 2048, cellAt t.gfx j = false) ∧
    t = { s with gfx := t.gfx, drawFlag := true, pc := s.pc + 2 }

/-- R214: the closed form of a draw. The cells under the sprite's set pixels are inverted and no other, `cell` is
injective on them, VF is 1 exactly when one of them was set, the draw flag is set, and nothing else changes. The wrapping
and the bit order are the choices of D10 and D11 (notes/assumptions/7.md, 8.md). That at x or y = 0xF the coordinate is
the old VF is the choice of D4 (9.md), that the draw flag is set even when no cell changes that of D20 (23.md). The spec
marks the closed form as its own inference. That `n` stands as a number, with its range as a hypothesis, is the model's
choice (19.md). -/
def Obligations.DrawInvertsTheCellsUnderTheSprite : Prop :=
  ∀ (s : State) (x y : Reg) (n : Nat), n < 16 → (0 < n → s.I.toNat + n - 1 ≤ 0xFFF) →
    (∀ r c r' c', SpritePixel s n r c → SpritePixel s n r' c' →
      spriteCell s x y r c = spriteCell s x y r' c' → r = r' ∧ c = c') ∧
    ∃ t, exec (.drw x y n) s = .next t ∧
      (∀ j < 2048, (UnderSprite s x y n j → cellAt t.gfx j = !cellAt s.gfx j) ∧
        (¬ UnderSprite s x y n j → cellAt t.gfx j = cellAt s.gfx j)) ∧
      ((∃ j < 2048, UnderSprite s x y n j ∧ cellAt s.gfx j = true) → val t VF = 1) ∧
      ((¬ ∃ j < 2048, UnderSprite s x y n j ∧ cellAt s.gfx j = true) → val t VF = 0) ∧
      (∀ j : Reg, j ≠ VF → t.readV j = s.readV j) ∧
      t = { s with V := t.V, gfx := t.gfx, drawFlag := true, pc := s.pc + 2 }

/-- 95_test_vectors.md S10: a second draw of the same sprite at the same position gives the screen back, and reports a
collision when the sprite has a set pixel and the first draw reported none. The wrapping and the bit order are the choices
of D10 and D11 (notes/assumptions/7.md, 8.md), the order of reads and writes at 0xF that of D4 (9.md). That `n` stands as
a number, with its range as a hypothesis, is the model's choice (19.md). -/
def Obligations.DrawingTwiceRestoresTheScreen : Prop :=
  ∀ (s t : State) (x y : Reg) (n : Nat), n < 16 → exec (.drw x y n) s = .next t →
    ∃ u, exec (.drw x y n) { t with V := s.V } = .next u ∧ u.gfx = s.gfx ∧
      ((∃ r c, SpritePixel s n r c) → val t VF = 0 → val u VF = 1)

/-! ## Keys and timers -/

/-- R230, R231, R256: the key skips; a key number above 15 faults, by the choice of D9 (notes/assumptions/11.md). The
record is the choice of D6 (24.md). -/
def Obligations.KeySkips : Prop :=
  ∀ (s : State) (x : Reg),
    (val s x ≤ 15 →
      exec (.skp x) s = .next { s with pc := if s.key.getLsbD (val s x) = true then s.pc + 4 else s.pc + 2 } ∧
      exec (.sknp x) s = .next { s with pc := if s.key.getLsbD (val s x) = false then s.pc + 4 else s.pc + 2 }) ∧
    (val s x > 15 →
      exec (.skp x) s = .fault (.keyIndexOutOfRange s.pc s.opcode (s.readV x)) ∧
      exec (.sknp x) s = .fault (.keyIndexOutOfRange s.pc s.opcode (s.readV x)))

/-- R232: with no key down nothing is written and the waiting step still ticks (D18); else the least key goes to Vx, which
is the choice of D17 (notes/assumptions/10.md, 21.md). The step ends in `ticked`, which sets `rndIn` to none and adds 1
to `rndIndex`: the model's own choice (D16, 2.md). -/
def Obligations.WaitForKeyTakesTheLeast : Prop :=
  ∀ (s : State) (x : Reg),
    ((∀ i < 16, s.key.getLsbD i = false) → exec (.ldVxK x) s = .next s ∧
      (s.pc.toNat ≤ 0xFFE → fetches s (.ldVxK x) → step s = .next (ticked { s with opcode := wordAtPc s }))) ∧
    (∀ k < 16, s.key.getLsbD k = true → (∀ i < k, s.key.getLsbD i = false) →
      SetsRegs (.ldVxK x) s (fun j => if j = x then k else val s j) (s.pc + 2))

/-- R240 to R242: the timer instructions, first without and then with the tick that closes their step. That every Ok step
ends with the tick rests on D18 and C11 (notes/assumptions/21.md). -/
def Obligations.TimerReadAndWrites : Prop :=
  ∀ (s : State) (x : Reg),
    SetsRegs (.ldVxDt x) s (fun j => if j = x then s.delayTimer.toNat else val s j) (s.pc + 2) ∧
    exec (.ldDtVx x) s = .next { s with delayTimer := s.readV x, pc := s.pc + 2 } ∧
    exec (.ldStVx x) s = .next { s with soundTimer := s.readV x, pc := s.pc + 2 } ∧
    ∀ u, step s = .next u →
      (fetches s (.ldVxDt x) → val u x = s.delayTimer.toNat ∧ u.delayTimer.toNat = s.delayTimer.toNat - 1) ∧
      (fetches s (.ldDtVx x) → u.delayTimer.toNat = val s x - 1) ∧
      (fetches s (.ldStVx x) → u.soundTimer.toNat = val s x - 1)

/-! ## The host interface -/

/-- R290: `initialize` gives every element its value whatever the machine held, and twice is the same as once. That it
clears the keys is the choice of D25, the font bytes are those of D12 (notes/assumptions/1.md), the input fields are kept
(15.md). That drawFlag is then 1 is C3 (23.md). -/
def Obligations.InitializeResetsEverything : Prop :=
  ∀ s : State, ∃ t, hostOp .initializeMachine s = (.done, t) ∧
    (∀ a < 80, t.mem.read a = fontRom.getD a 0) ∧ (∀ a, 80 ≤ a → a < 0x1000 → t.mem.read a = 0) ∧
    (∀ j, val t j = 0) ∧ (∀ k : Fin 16, t.stack.get k = 0) ∧ (∀ k < 16, t.key.getLsbD k = false) ∧
    (∀ j < 2048, cellAt t.gfx j = false) ∧ t.I = 0 ∧ t.sp.val = 0 ∧ t.delayTimer = 0 ∧ t.soundTimer = 0 ∧
    t.opcode = 0 ∧ t.pc = 0x200 ∧ t.drawFlag = true ∧
    hostOp .initializeMachine t = (.done, t)

/-- R296, R257: the image goes to 0x200 and nothing else changes, up to 3584 bytes; more is OversizeImage and changes
nothing. That nothing else changes is the choice of D22 (notes/assumptions/25.md). The record is the choice of D6 (24.md),
the canonical form the model's (17.md). -/
def Obligations.LoadProgramCopiesTheImage : Prop :=
  ∀ (s : State) (name : String) (bytes : List Byte),
    (bytes.length ≤ 3584 → ∃ t, hostOp (.loadProgram name bytes) s = (.done, t) ∧
      (s.mem.wf = true → ∀ i < bytes.length, t.mem.read (0x200 + i) = bytes.getD i 0) ∧
      (∀ a, a < 0x200 ∨ 0x200 + bytes.length ≤ a → t.mem.read a = s.mem.read a) ∧
      t = { s with mem := t.mem }) ∧
    (bytes.length > 3584 → hostOp (.loadProgram name bytes) s = (.fault (.oversizeImage bytes.length), s))

/-- R277: `set_key` sets one key and nothing else; an index above 15 is refused, as D21 asks
(notes/assumptions/14.md). -/
def Obligations.SetKeySetsOneKey : Prop :=
  ∀ (s : State) (index : Nat) (pressed : Bool),
    (index < 16 → ∃ t, hostOp (.setKey index pressed) s = (.done, t) ∧
      (∀ k < 16, t.key.getLsbD k = if k = index then pressed else s.key.getLsbD k) ∧ t = { s with key := t.key }) ∧
    (16 ≤ index → hostOp (.setKey index pressed) s = (.refused (.notAKey index), s))

/-- R278, R280, R282, R283: a port returns its element and changes nothing; no host operation but `initialize` writes the
framebuffer between steps. -/
def Obligations.PortsReadAndChangeNothing : Prop :=
  ∀ s : State,
    hostOp .drawPending s = (.flag s.drawFlag, s) ∧
    hostOp .readFramebuffer s = (.frame s.gfx, s) ∧
    hostOp .readSoundTimer s = (.timer s.soundTimer, s) ∧
    hostOp .readOpcode s = (.word s.opcode, s) ∧
    ∀ op : HostOp, op ≠ .initializeMachine → (∀ r, op ≠ .stepWith r) → (hostOp op s).2.gfx = s.gfx

/-- R279: the host clears the draw flag and nothing else; the operation is named by the spec, D20
(notes/assumptions/23.md). -/
def Obligations.ClearDrawFlagClearsIt : Prop :=
  ∀ s : State, hostOp .clearDrawFlag s = (.done, { s with drawFlag := false })

/-- R131: the host's `step` returns Ok, or the fault, and nothing else; after a fault the machine is the one of R128 (D5,
notes/assumptions/3.md, 26.md). That the host presents the byte is the choice of D16 (2.md). -/
def Obligations.HostStepReturnsOkOrFault : Prop :=
  ∀ (s : State) (rnd : Byte),
    (∃ t, step (s.present rnd) = .next t ∧ hostOp (.stepWith rnd) s = (.done, t)) ∨
    (∃ f, step (s.present rnd) = .fault f ∧ hostOp (.stepWith rnd) s = (.fault f, (s.present rnd).afterFault f))

/-- R291: before the first `initialize` no other operation has a meaning (D25, notes/assumptions/5.md). The input fields
of State.reset are the model's own (2.md). -/
def Obligations.NothingBeforeInitialize : Prop :=
  hostInterface .initializeMachine none = (.done, some State.reset) ∧
  ∀ op : HostOp, op ≠ .initializeMachine → hostInterface op none = (.refused .notInitialized, none)
end

