-- ==== Sys2Proof/Laws/State.lean ====
section
/-! SUPPORT. The fields of a state after each named update: one lemma per field per update, each true by rfl. -/

namespace Sys2Proof.Machine

/-! ### writeV -/

@[simp] theorem State.writeV_mem (s : State) (x : Reg) (b : Byte) : (s.writeV x b).mem = s.mem := rfl
@[simp] theorem State.writeV_V (s : State) (x : Reg) (b : Byte) : (s.writeV x b).V = s.V.set x.val b x.isLt := rfl
@[simp] theorem State.writeV_I (s : State) (x : Reg) (b : Byte) : (s.writeV x b).I = s.I := rfl
@[simp] theorem State.writeV_pc (s : State) (x : Reg) (b : Byte) : (s.writeV x b).pc = s.pc := rfl
@[simp] theorem State.writeV_stack (s : State) (x : Reg) (b : Byte) : (s.writeV x b).stack = s.stack := rfl
@[simp] theorem State.writeV_sp (s : State) (x : Reg) (b : Byte) : (s.writeV x b).sp = s.sp := rfl
@[simp] theorem State.writeV_key (s : State) (x : Reg) (b : Byte) : (s.writeV x b).key = s.key := rfl
@[simp] theorem State.writeV_gfx (s : State) (x : Reg) (b : Byte) : (s.writeV x b).gfx = s.gfx := rfl
@[simp] theorem State.writeV_delayTimer (s : State) (x : Reg) (b : Byte) :
    (s.writeV x b).delayTimer = s.delayTimer := rfl
@[simp] theorem State.writeV_soundTimer (s : State) (x : Reg) (b : Byte) :
    (s.writeV x b).soundTimer = s.soundTimer := rfl
@[simp] theorem State.writeV_drawFlag (s : State) (x : Reg) (b : Byte) : (s.writeV x b).drawFlag = s.drawFlag := rfl
@[simp] theorem State.writeV_opcode (s : State) (x : Reg) (b : Byte) : (s.writeV x b).opcode = s.opcode := rfl
@[simp] theorem State.writeV_rndIn (s : State) (x : Reg) (b : Byte) : (s.writeV x b).rndIn = s.rndIn := rfl
@[simp] theorem State.writeV_rndIndex (s : State) (x : Reg) (b : Byte) : (s.writeV x b).rndIndex = s.rndIndex := rfl

/-! ### writeFlag -/

@[simp] theorem State.writeFlag_mem (s : State) (f : Bool) : (s.writeFlag f).mem = s.mem := rfl
@[simp] theorem State.writeFlag_V (s : State) (f : Bool) : (s.writeFlag f).V = s.V.set 15 (flagByte f) := rfl
@[simp] theorem State.writeFlag_I (s : State) (f : Bool) : (s.writeFlag f).I = s.I := rfl
@[simp] theorem State.writeFlag_pc (s : State) (f : Bool) : (s.writeFlag f).pc = s.pc := rfl
@[simp] theorem State.writeFlag_stack (s : State) (f : Bool) : (s.writeFlag f).stack = s.stack := rfl
@[simp] theorem State.writeFlag_sp (s : State) (f : Bool) : (s.writeFlag f).sp = s.sp := rfl
@[simp] theorem State.writeFlag_key (s : State) (f : Bool) : (s.writeFlag f).key = s.key := rfl
@[simp] theorem State.writeFlag_gfx (s : State) (f : Bool) : (s.writeFlag f).gfx = s.gfx := rfl
@[simp] theorem State.writeFlag_delayTimer (s : State) (f : Bool) : (s.writeFlag f).delayTimer = s.delayTimer := rfl
@[simp] theorem State.writeFlag_soundTimer (s : State) (f : Bool) : (s.writeFlag f).soundTimer = s.soundTimer := rfl
@[simp] theorem State.writeFlag_drawFlag (s : State) (f : Bool) : (s.writeFlag f).drawFlag = s.drawFlag := rfl
@[simp] theorem State.writeFlag_opcode (s : State) (f : Bool) : (s.writeFlag f).opcode = s.opcode := rfl
@[simp] theorem State.writeFlag_rndIn (s : State) (f : Bool) : (s.writeFlag f).rndIn = s.rndIn := rfl
@[simp] theorem State.writeFlag_rndIndex (s : State) (f : Bool) : (s.writeFlag f).rndIndex = s.rndIndex := rfl

/-! ### setI -/

@[simp] theorem State.setI_mem (s : State) (w : Word) : (s.setI w).mem = s.mem := rfl
@[simp] theorem State.setI_V (s : State) (w : Word) : (s.setI w).V = s.V := rfl
@[simp] theorem State.setI_I (s : State) (w : Word) : (s.setI w).I = w := rfl
@[simp] theorem State.setI_pc (s : State) (w : Word) : (s.setI w).pc = s.pc := rfl
@[simp] theorem State.setI_stack (s : State) (w : Word) : (s.setI w).stack = s.stack := rfl
@[simp] theorem State.setI_sp (s : State) (w : Word) : (s.setI w).sp = s.sp := rfl
@[simp] theorem State.setI_key (s : State) (w : Word) : (s.setI w).key = s.key := rfl
@[simp] theorem State.setI_gfx (s : State) (w : Word) : (s.setI w).gfx = s.gfx := rfl
@[simp] theorem State.setI_delayTimer (s : State) (w : Word) : (s.setI w).delayTimer = s.delayTimer := rfl
@[simp] theorem State.setI_soundTimer (s : State) (w : Word) : (s.setI w).soundTimer = s.soundTimer := rfl
@[simp] theorem State.setI_drawFlag (s : State) (w : Word) : (s.setI w).drawFlag = s.drawFlag := rfl
@[simp] theorem State.setI_opcode (s : State) (w : Word) : (s.setI w).opcode = s.opcode := rfl
@[simp] theorem State.setI_rndIn (s : State) (w : Word) : (s.setI w).rndIn = s.rndIn := rfl
@[simp] theorem State.setI_rndIndex (s : State) (w : Word) : (s.setI w).rndIndex = s.rndIndex := rfl

/-! ### jumpTo -/

@[simp] theorem State.jumpTo_mem (s : State) (w : Word) : (s.jumpTo w).mem = s.mem := rfl
@[simp] theorem State.jumpTo_V (s : State) (w : Word) : (s.jumpTo w).V = s.V := rfl
@[simp] theorem State.jumpTo_I (s : State) (w : Word) : (s.jumpTo w).I = s.I := rfl
@[simp] theorem State.jumpTo_pc (s : State) (w : Word) : (s.jumpTo w).pc = w := rfl
@[simp] theorem State.jumpTo_stack (s : State) (w : Word) : (s.jumpTo w).stack = s.stack := rfl
@[simp] theorem State.jumpTo_sp (s : State) (w : Word) : (s.jumpTo w).sp = s.sp := rfl
@[simp] theorem State.jumpTo_key (s : State) (w : Word) : (s.jumpTo w).key = s.key := rfl
@[simp] theorem State.jumpTo_gfx (s : State) (w : Word) : (s.jumpTo w).gfx = s.gfx := rfl
@[simp] theorem State.jumpTo_delayTimer (s : State) (w : Word) : (s.jumpTo w).delayTimer = s.delayTimer := rfl
@[simp] theorem State.jumpTo_soundTimer (s : State) (w : Word) : (s.jumpTo w).soundTimer = s.soundTimer := rfl
@[simp] theorem State.jumpTo_drawFlag (s : State) (w : Word) : (s.jumpTo w).drawFlag = s.drawFlag := rfl
@[simp] theorem State.jumpTo_opcode (s : State) (w : Word) : (s.jumpTo w).opcode = s.opcode := rfl
@[simp] theorem State.jumpTo_rndIn (s : State) (w : Word) : (s.jumpTo w).rndIn = s.rndIn := rfl
@[simp] theorem State.jumpTo_rndIndex (s : State) (w : Word) : (s.jumpTo w).rndIndex = s.rndIndex := rfl

/-! ### advance -/

@[simp] theorem State.advance_mem (s : State) : (s.advance).mem = s.mem := rfl
@[simp] theorem State.advance_V (s : State) : (s.advance).V = s.V := rfl
@[simp] theorem State.advance_I (s : State) : (s.advance).I = s.I := rfl
@[simp] theorem State.advance_pc (s : State) : (s.advance).pc = s.pc + 2 := rfl
@[simp] theorem State.advance_stack (s : State) : (s.advance).stack = s.stack := rfl
@[simp] theorem State.advance_sp (s : State) : (s.advance).sp = s.sp := rfl
@[simp] theorem State.advance_key (s : State) : (s.advance).key = s.key := rfl
@[simp] theorem State.advance_gfx (s : State) : (s.advance).gfx = s.gfx := rfl
@[simp] theorem State.advance_delayTimer (s : State) : (s.advance).delayTimer = s.delayTimer := rfl
@[simp] theorem State.advance_soundTimer (s : State) : (s.advance).soundTimer = s.soundTimer := rfl
@[simp] theorem State.advance_drawFlag (s : State) : (s.advance).drawFlag = s.drawFlag := rfl
@[simp] theorem State.advance_opcode (s : State) : (s.advance).opcode = s.opcode := rfl
@[simp] theorem State.advance_rndIn (s : State) : (s.advance).rndIn = s.rndIn := rfl
@[simp] theorem State.advance_rndIndex (s : State) : (s.advance).rndIndex = s.rndIndex := rfl

/-! ### skipIf -/

@[simp] theorem State.skipIf_mem (s : State) (taken : Bool) : (s.skipIf taken).mem = s.mem := rfl
@[simp] theorem State.skipIf_V (s : State) (taken : Bool) : (s.skipIf taken).V = s.V := rfl
@[simp] theorem State.skipIf_I (s : State) (taken : Bool) : (s.skipIf taken).I = s.I := rfl
@[simp] theorem State.skipIf_pc (s : State) (taken : Bool) :
    (s.skipIf taken).pc = if taken then s.pc + 4 else s.pc + 2 := rfl
@[simp] theorem State.skipIf_stack (s : State) (taken : Bool) : (s.skipIf taken).stack = s.stack := rfl
@[simp] theorem State.skipIf_sp (s : State) (taken : Bool) : (s.skipIf taken).sp = s.sp := rfl
@[simp] theorem State.skipIf_key (s : State) (taken : Bool) : (s.skipIf taken).key = s.key := rfl
@[simp] theorem State.skipIf_gfx (s : State) (taken : Bool) : (s.skipIf taken).gfx = s.gfx := rfl
@[simp] theorem State.skipIf_delayTimer (s : State) (taken : Bool) : (s.skipIf taken).delayTimer = s.delayTimer := rfl
@[simp] theorem State.skipIf_soundTimer (s : State) (taken : Bool) : (s.skipIf taken).soundTimer = s.soundTimer := rfl
@[simp] theorem State.skipIf_drawFlag (s : State) (taken : Bool) : (s.skipIf taken).drawFlag = s.drawFlag := rfl
@[simp] theorem State.skipIf_opcode (s : State) (taken : Bool) : (s.skipIf taken).opcode = s.opcode := rfl
@[simp] theorem State.skipIf_rndIn (s : State) (taken : Bool) : (s.skipIf taken).rndIn = s.rndIn := rfl
@[simp] theorem State.skipIf_rndIndex (s : State) (taken : Bool) : (s.skipIf taken).rndIndex = s.rndIndex := rfl

/-! ### tick -/

@[simp] theorem State.tick_mem (s : State) : (s.tick).mem = s.mem := rfl
@[simp] theorem State.tick_V (s : State) : (s.tick).V = s.V := rfl
@[simp] theorem State.tick_I (s : State) : (s.tick).I = s.I := rfl
@[simp] theorem State.tick_pc (s : State) : (s.tick).pc = s.pc := rfl
@[simp] theorem State.tick_stack (s : State) : (s.tick).stack = s.stack := rfl
@[simp] theorem State.tick_sp (s : State) : (s.tick).sp = s.sp := rfl
@[simp] theorem State.tick_key (s : State) : (s.tick).key = s.key := rfl
@[simp] theorem State.tick_gfx (s : State) : (s.tick).gfx = s.gfx := rfl
@[simp] theorem State.tick_delayTimer (s : State) : (s.tick).delayTimer = tickTimer s.delayTimer := rfl
@[simp] theorem State.tick_soundTimer (s : State) : (s.tick).soundTimer = tickTimer s.soundTimer := rfl
@[simp] theorem State.tick_drawFlag (s : State) : (s.tick).drawFlag = s.drawFlag := rfl
@[simp] theorem State.tick_opcode (s : State) : (s.tick).opcode = s.opcode := rfl
@[simp] theorem State.tick_rndIn (s : State) : (s.tick).rndIn = s.rndIn := rfl
@[simp] theorem State.tick_rndIndex (s : State) : (s.tick).rndIndex = s.rndIndex := rfl

/-! ### present -/

@[simp] theorem State.present_mem (s : State) (r : Byte) : (s.present r).mem = s.mem := rfl
@[simp] theorem State.present_V (s : State) (r : Byte) : (s.present r).V = s.V := rfl
@[simp] theorem State.present_I (s : State) (r : Byte) : (s.present r).I = s.I := rfl
@[simp] theorem State.present_pc (s : State) (r : Byte) : (s.present r).pc = s.pc := rfl
@[simp] theorem State.present_stack (s : State) (r : Byte) : (s.present r).stack = s.stack := rfl
@[simp] theorem State.present_sp (s : State) (r : Byte) : (s.present r).sp = s.sp := rfl
@[simp] theorem State.present_key (s : State) (r : Byte) : (s.present r).key = s.key := rfl
@[simp] theorem State.present_gfx (s : State) (r : Byte) : (s.present r).gfx = s.gfx := rfl
@[simp] theorem State.present_delayTimer (s : State) (r : Byte) : (s.present r).delayTimer = s.delayTimer := rfl
@[simp] theorem State.present_soundTimer (s : State) (r : Byte) : (s.present r).soundTimer = s.soundTimer := rfl
@[simp] theorem State.present_drawFlag (s : State) (r : Byte) : (s.present r).drawFlag = s.drawFlag := rfl
@[simp] theorem State.present_opcode (s : State) (r : Byte) : (s.present r).opcode = s.opcode := rfl
@[simp] theorem State.present_rndIn (s : State) (r : Byte) : (s.present r).rndIn = some r := rfl
@[simp] theorem State.present_rndIndex (s : State) (r : Byte) : (s.present r).rndIndex = s.rndIndex := rfl

/-! ### endInput -/

@[simp] theorem State.endInput_mem (s : State) : (s.endInput).mem = s.mem := rfl
@[simp] theorem State.endInput_V (s : State) : (s.endInput).V = s.V := rfl
@[simp] theorem State.endInput_I (s : State) : (s.endInput).I = s.I := rfl
@[simp] theorem State.endInput_pc (s : State) : (s.endInput).pc = s.pc := rfl
@[simp] theorem State.endInput_stack (s : State) : (s.endInput).stack = s.stack := rfl
@[simp] theorem State.endInput_sp (s : State) : (s.endInput).sp = s.sp := rfl
@[simp] theorem State.endInput_key (s : State) : (s.endInput).key = s.key := rfl
@[simp] theorem State.endInput_gfx (s : State) : (s.endInput).gfx = s.gfx := rfl
@[simp] theorem State.endInput_delayTimer (s : State) : (s.endInput).delayTimer = s.delayTimer := rfl
@[simp] theorem State.endInput_soundTimer (s : State) : (s.endInput).soundTimer = s.soundTimer := rfl
@[simp] theorem State.endInput_drawFlag (s : State) : (s.endInput).drawFlag = s.drawFlag := rfl
@[simp] theorem State.endInput_opcode (s : State) : (s.endInput).opcode = s.opcode := rfl
@[simp] theorem State.endInput_rndIn (s : State) : (s.endInput).rndIn = none := rfl
@[simp] theorem State.endInput_rndIndex (s : State) : (s.endInput).rndIndex = s.rndIndex + 1 := rfl

/-! ### latchOpcode -/

@[simp] theorem State.latchOpcode_mem (s : State) (w : Word) : (s.latchOpcode w).mem = s.mem := rfl
@[simp] theorem State.latchOpcode_V (s : State) (w : Word) : (s.latchOpcode w).V = s.V := rfl
@[simp] theorem State.latchOpcode_I (s : State) (w : Word) : (s.latchOpcode w).I = s.I := rfl
@[simp] theorem State.latchOpcode_pc (s : State) (w : Word) : (s.latchOpcode w).pc = s.pc := rfl
@[simp] theorem State.latchOpcode_stack (s : State) (w : Word) : (s.latchOpcode w).stack = s.stack := rfl
@[simp] theorem State.latchOpcode_sp (s : State) (w : Word) : (s.latchOpcode w).sp = s.sp := rfl
@[simp] theorem State.latchOpcode_key (s : State) (w : Word) : (s.latchOpcode w).key = s.key := rfl
@[simp] theorem State.latchOpcode_gfx (s : State) (w : Word) : (s.latchOpcode w).gfx = s.gfx := rfl
@[simp] theorem State.latchOpcode_delayTimer (s : State) (w : Word) :
    (s.latchOpcode w).delayTimer = s.delayTimer := rfl
@[simp] theorem State.latchOpcode_soundTimer (s : State) (w : Word) :
    (s.latchOpcode w).soundTimer = s.soundTimer := rfl
@[simp] theorem State.latchOpcode_drawFlag (s : State) (w : Word) : (s.latchOpcode w).drawFlag = s.drawFlag := rfl
@[simp] theorem State.latchOpcode_opcode (s : State) (w : Word) : (s.latchOpcode w).opcode = w := rfl
@[simp] theorem State.latchOpcode_rndIn (s : State) (w : Word) : (s.latchOpcode w).rndIn = s.rndIn := rfl
@[simp] theorem State.latchOpcode_rndIndex (s : State) (w : Word) : (s.latchOpcode w).rndIndex = s.rndIndex := rfl

/-! ### storeAtI -/

@[simp] theorem State.storeAtI_mem (s : State) (bytes : List Byte) :
    (s.storeAtI bytes).mem = s.mem.writeBytes (s.dataAddr 0) bytes := rfl
@[simp] theorem State.storeAtI_V (s : State) (bytes : List Byte) : (s.storeAtI bytes).V = s.V := rfl
@[simp] theorem State.storeAtI_I (s : State) (bytes : List Byte) : (s.storeAtI bytes).I = s.I := rfl
@[simp] theorem State.storeAtI_pc (s : State) (bytes : List Byte) : (s.storeAtI bytes).pc = s.pc := rfl
@[simp] theorem State.storeAtI_stack (s : State) (bytes : List Byte) : (s.storeAtI bytes).stack = s.stack := rfl
@[simp] theorem State.storeAtI_sp (s : State) (bytes : List Byte) : (s.storeAtI bytes).sp = s.sp := rfl
@[simp] theorem State.storeAtI_key (s : State) (bytes : List Byte) : (s.storeAtI bytes).key = s.key := rfl
@[simp] theorem State.storeAtI_gfx (s : State) (bytes : List Byte) : (s.storeAtI bytes).gfx = s.gfx := rfl
@[simp] theorem State.storeAtI_delayTimer (s : State) (bytes : List Byte) :
    (s.storeAtI bytes).delayTimer = s.delayTimer := rfl
@[simp] theorem State.storeAtI_soundTimer (s : State) (bytes : List Byte) :
    (s.storeAtI bytes).soundTimer = s.soundTimer := rfl
@[simp] theorem State.storeAtI_drawFlag (s : State) (bytes : List Byte) :
    (s.storeAtI bytes).drawFlag = s.drawFlag := rfl
@[simp] theorem State.storeAtI_opcode (s : State) (bytes : List Byte) : (s.storeAtI bytes).opcode = s.opcode := rfl
@[simp] theorem State.storeAtI_rndIn (s : State) (bytes : List Byte) : (s.storeAtI bytes).rndIn = s.rndIn := rfl
@[simp] theorem State.storeAtI_rndIndex (s : State) (bytes : List Byte) :
    (s.storeAtI bytes).rndIndex = s.rndIndex := rfl

/-! ### loadBlock -/

@[simp] theorem State.loadBlock_mem (s : State) (x : Reg) : (s.loadBlock x).mem = s.mem := rfl
@[simp] theorem State.loadBlock_V (s : State) (x : Reg) :
    (s.loadBlock x).V = Vector.ofFn (fun i : Fin 16 => if i ≤ x then s.mem.read (s.dataAddr i.val) else s.V.get i) := rfl
@[simp] theorem State.loadBlock_I (s : State) (x : Reg) : (s.loadBlock x).I = s.I := rfl
@[simp] theorem State.loadBlock_pc (s : State) (x : Reg) : (s.loadBlock x).pc = s.pc := rfl
@[simp] theorem State.loadBlock_stack (s : State) (x : Reg) : (s.loadBlock x).stack = s.stack := rfl
@[simp] theorem State.loadBlock_sp (s : State) (x : Reg) : (s.loadBlock x).sp = s.sp := rfl
@[simp] theorem State.loadBlock_key (s : State) (x : Reg) : (s.loadBlock x).key = s.key := rfl
@[simp] theorem State.loadBlock_gfx (s : State) (x : Reg) : (s.loadBlock x).gfx = s.gfx := rfl
@[simp] theorem State.loadBlock_delayTimer (s : State) (x : Reg) : (s.loadBlock x).delayTimer = s.delayTimer := rfl
@[simp] theorem State.loadBlock_soundTimer (s : State) (x : Reg) : (s.loadBlock x).soundTimer = s.soundTimer := rfl
@[simp] theorem State.loadBlock_drawFlag (s : State) (x : Reg) : (s.loadBlock x).drawFlag = s.drawFlag := rfl
@[simp] theorem State.loadBlock_opcode (s : State) (x : Reg) : (s.loadBlock x).opcode = s.opcode := rfl
@[simp] theorem State.loadBlock_rndIn (s : State) (x : Reg) : (s.loadBlock x).rndIn = s.rndIn := rfl
@[simp] theorem State.loadBlock_rndIndex (s : State) (x : Reg) : (s.loadBlock x).rndIndex = s.rndIndex := rfl

/-! ### stepI -/

@[simp] theorem State.stepI_mem (s : State) (x : Reg) : (s.stepI x).mem = s.mem := rfl
@[simp] theorem State.stepI_V (s : State) (x : Reg) : (s.stepI x).V = s.V := rfl
@[simp] theorem State.stepI_I (s : State) (x : Reg) : (s.stepI x).I = s.I + BitVec.ofNat 16 (x.val + 1) := rfl
@[simp] theorem State.stepI_pc (s : State) (x : Reg) : (s.stepI x).pc = s.pc := rfl
@[simp] theorem State.stepI_stack (s : State) (x : Reg) : (s.stepI x).stack = s.stack := rfl
@[simp] theorem State.stepI_sp (s : State) (x : Reg) : (s.stepI x).sp = s.sp := rfl
@[simp] theorem State.stepI_key (s : State) (x : Reg) : (s.stepI x).key = s.key := rfl
@[simp] theorem State.stepI_gfx (s : State) (x : Reg) : (s.stepI x).gfx = s.gfx := rfl
@[simp] theorem State.stepI_delayTimer (s : State) (x : Reg) : (s.stepI x).delayTimer = s.delayTimer := rfl
@[simp] theorem State.stepI_soundTimer (s : State) (x : Reg) : (s.stepI x).soundTimer = s.soundTimer := rfl
@[simp] theorem State.stepI_drawFlag (s : State) (x : Reg) : (s.stepI x).drawFlag = s.drawFlag := rfl
@[simp] theorem State.stepI_opcode (s : State) (x : Reg) : (s.stepI x).opcode = s.opcode := rfl
@[simp] theorem State.stepI_rndIn (s : State) (x : Reg) : (s.stepI x).rndIn = s.rndIn := rfl
@[simp] theorem State.stepI_rndIndex (s : State) (x : Reg) : (s.stepI x).rndIndex = s.rndIndex := rfl

/-! ### afterFault -/

@[simp] theorem State.afterFault_mem (s : State) (f : Fault) : (s.afterFault f).mem = s.mem := rfl
@[simp] theorem State.afterFault_V (s : State) (f : Fault) : (s.afterFault f).V = s.V := rfl
@[simp] theorem State.afterFault_I (s : State) (f : Fault) : (s.afterFault f).I = s.I := rfl
@[simp] theorem State.afterFault_pc (s : State) (f : Fault) : (s.afterFault f).pc = s.pc := rfl
@[simp] theorem State.afterFault_stack (s : State) (f : Fault) : (s.afterFault f).stack = s.stack := rfl
@[simp] theorem State.afterFault_sp (s : State) (f : Fault) : (s.afterFault f).sp = s.sp := rfl
@[simp] theorem State.afterFault_key (s : State) (f : Fault) : (s.afterFault f).key = s.key := rfl
@[simp] theorem State.afterFault_gfx (s : State) (f : Fault) : (s.afterFault f).gfx = s.gfx := rfl
@[simp] theorem State.afterFault_delayTimer (s : State) (f : Fault) :
    (s.afterFault f).delayTimer = s.delayTimer := rfl
@[simp] theorem State.afterFault_soundTimer (s : State) (f : Fault) :
    (s.afterFault f).soundTimer = s.soundTimer := rfl
@[simp] theorem State.afterFault_drawFlag (s : State) (f : Fault) : (s.afterFault f).drawFlag = s.drawFlag := rfl
@[simp] theorem State.afterFault_opcode (s : State) (f : Fault) :
    (s.afterFault f).opcode = f.latched.getD s.opcode := rfl
@[simp] theorem State.afterFault_rndIn (s : State) (f : Fault) : (s.afterFault f).rndIn = none := rfl
@[simp] theorem State.afterFault_rndIndex (s : State) (f : Fault) : (s.afterFault f).rndIndex = s.rndIndex + 1 := rfl

/-! ### clearDrawFlag -/

@[simp] theorem State.clearDrawFlag_mem (s : State) : (s.clearDrawFlag).mem = s.mem := rfl
@[simp] theorem State.clearDrawFlag_V (s : State) : (s.clearDrawFlag).V = s.V := rfl
@[simp] theorem State.clearDrawFlag_I (s : State) : (s.clearDrawFlag).I = s.I := rfl
@[simp] theorem State.clearDrawFlag_pc (s : State) : (s.clearDrawFlag).pc = s.pc := rfl
@[simp] theorem State.clearDrawFlag_stack (s : State) : (s.clearDrawFlag).stack = s.stack := rfl
@[simp] theorem State.clearDrawFlag_sp (s : State) : (s.clearDrawFlag).sp = s.sp := rfl
@[simp] theorem State.clearDrawFlag_key (s : State) : (s.clearDrawFlag).key = s.key := rfl
@[simp] theorem State.clearDrawFlag_gfx (s : State) : (s.clearDrawFlag).gfx = s.gfx := rfl
@[simp] theorem State.clearDrawFlag_delayTimer (s : State) : (s.clearDrawFlag).delayTimer = s.delayTimer := rfl
@[simp] theorem State.clearDrawFlag_soundTimer (s : State) : (s.clearDrawFlag).soundTimer = s.soundTimer := rfl
@[simp] theorem State.clearDrawFlag_drawFlag (s : State) : (s.clearDrawFlag).drawFlag = false := rfl
@[simp] theorem State.clearDrawFlag_opcode (s : State) : (s.clearDrawFlag).opcode = s.opcode := rfl
@[simp] theorem State.clearDrawFlag_rndIn (s : State) : (s.clearDrawFlag).rndIn = s.rndIn := rfl
@[simp] theorem State.clearDrawFlag_rndIndex (s : State) : (s.clearDrawFlag).rndIndex = s.rndIndex := rfl

/-! ### readV -/

theorem State.readV_eq (s : State) (x : Reg) : s.readV x = s.V[x.val] := rfl

@[simp] theorem State.readV_writeV_same (s : State) (x : Reg) (b : Byte) : (s.writeV x b).readV x = b := by
  simp [State.readV_eq]

theorem State.readV_writeV (s : State) (x y : Reg) (b : Byte) :
    (s.writeV x b).readV y = if y = x then b else s.readV y := by
  simp only [State.readV_eq, State.writeV_V, Vector.getElem_set, Fin.ext_iff, eq_comm]

theorem State.readV_writeV_ne (s : State) (x y : Reg) (b : Byte) (h : y ≠ x) : (s.writeV x b).readV y = s.readV y := by
  simp [State.readV_writeV, h]

@[simp] theorem State.readV_setI (s : State) (w : Word) (y : Reg) : (s.setI w).readV y = s.readV y := rfl
@[simp] theorem State.readV_jumpTo (s : State) (w : Word) (y : Reg) : (s.jumpTo w).readV y = s.readV y := rfl
@[simp] theorem State.readV_advance (s : State) (y : Reg) : (s.advance).readV y = s.readV y := rfl
@[simp] theorem State.readV_skipIf (s : State) (taken : Bool) (y : Reg) : (s.skipIf taken).readV y = s.readV y := rfl
@[simp] theorem State.readV_tick (s : State) (y : Reg) : (s.tick).readV y = s.readV y := rfl
@[simp] theorem State.readV_present (s : State) (r : Byte) (y : Reg) : (s.present r).readV y = s.readV y := rfl
@[simp] theorem State.readV_endInput (s : State) (y : Reg) : (s.endInput).readV y = s.readV y := rfl
@[simp] theorem State.readV_latchOpcode (s : State) (w : Word) (y : Reg) : (s.latchOpcode w).readV y = s.readV y := rfl
@[simp] theorem State.readV_storeAtI (s : State) (bytes : List Byte) (y : Reg) : (s.storeAtI bytes).readV y = s.readV y := rfl
@[simp] theorem State.readV_stepI (s : State) (x : Reg) (y : Reg) : (s.stepI x).readV y = s.readV y := rfl
@[simp] theorem State.readV_afterFault (s : State) (f : Fault) (y : Reg) : (s.afterFault f).readV y = s.readV y := rfl
@[simp] theorem State.readV_clearDrawFlag (s : State) (y : Reg) : (s.clearDrawFlag).readV y = s.readV y := rfl

theorem State.readV_writeFlag (s : State) (f : Bool) (y : Reg) :
    (s.writeFlag f).readV y = if y = VF then flagByte f else s.readV y := State.readV_writeV s VF y (flagByte f)

theorem State.readV_loadBlock (s : State) (x y : Reg) :
    (s.loadBlock x).readV y = if y ≤ x then s.mem.read (s.dataAddr y.val) else s.readV y := by
  rw [State.readV_eq, State.loadBlock_V, Vector.getElem_ofFn]
  rfl

/-- The register part of a flag-writing instruction: the result in Vx wins over the flag at x = 0xF (R126). -/
theorem State.readV_writeFlagged (s : State) (x y : Reg) (f : Bool) (b : Byte) :
    (s.writeFlagged x f b).readV y = if y = x then b else if y = VF then flagByte f else s.readV y := by
  simp [State.writeFlagged, State.readV_writeV, State.readV_writeFlag]

end Sys2Proof.Machine
end

