-- ==== Sys2Proof/Laws/Ops.lean ====
section
/-! SUPPORT. What each shared operation can do, said once: raising, the range tests, push and pop, the least key, the tick,
the register block and the decimal digits. -/

namespace Sys2Proof.Machine

/-! ### Raising and the tests that come first -/

theorem State.raise_ne_next (s : State) (f : Word → Word → Fault) (t : State) : s.raise f ≠ .next t := by
  simp [State.raise]

@[simp] theorem State.raise_eq_next (s : State) (f : Word → Word → Fault) (t : State) :
    s.raise f = .next t ↔ False := iff_of_false (s.raise_ne_next f t) id

theorem State.accessOutOfRange_iff (s : State) (n : Nat) :
    s.accessOutOfRange n = true ↔ 0 < n ∧ 0x1000 < s.I.toNat + n := by
  rw [State.accessOutOfRange, decide_eq_true_iff, State.dataAddr]
  omega

theorem State.accessOutOfRange_false_iff (s : State) (n : Nat) :
    s.accessOutOfRange n = false ↔ (0 < n → s.I.toNat + n ≤ 0x1000) := by
  rw [← Bool.not_eq_true, State.accessOutOfRange_iff]
  omega

theorem State.withAccess_inside (s : State) (n : Nat) (k : Result) (h : 0 < n → s.I.toNat + n ≤ 0x1000) :
    s.withAccess n k = k := by
  rw [State.withAccess, (s.accessOutOfRange_false_iff n).2 h]
  rfl

theorem State.withAccess_outside (s : State) (n : Nat) (k : Result) (hn : 0 < n) (h : 0x1000 < s.I.toNat + n) :
    s.withAccess n k = .fault (.memOutOfRange s.pc s.opcode (max s.I.toNat 0x1000)) := by
  rw [State.withAccess, (s.accessOutOfRange_iff n).2 ⟨hn, h⟩]
  rfl

/-- Behind the access test an instruction answers a next state only when the access is inside memory. -/
theorem State.withAccess_eq_next (s : State) (n : Nat) (t u : State) :
    s.withAccess n (.next t) = .next u ↔ (0 < n → s.I.toNat + n ≤ 0x1000) ∧ u = t := by
  rw [← State.accessOutOfRange_false_iff, State.withAccess]
  cases s.accessOutOfRange n <;> simp [State.raise, eq_comm]

theorem State.withAccess_eq_fault (s : State) (n : Nat) (t : State) (f : Fault) :
    s.withAccess n (.next t) = .fault f ↔
      (0 < n ∧ 0x1000 < s.I.toNat + n) ∧ f = .memOutOfRange s.pc s.opcode (max s.I.toNat 0x1000) := by
  rw [← State.accessOutOfRange_iff, State.withAccess]
  cases s.accessOutOfRange n <;> simp [State.raise, State.firstBadAddr, eq_comm]

theorem State.withAccess_ne_refused (s : State) (n : Nat) (t : State) (r : Refusal) :
    s.withAccess n (.next t) ≠ .refused r := by
  rw [State.withAccess]
  cases s.accessOutOfRange n <;> simp [State.raise]

theorem State.withKeyIndex_key (s : State) (x : Reg) (k : Nat → Result) (h : (s.readV x).toNat ≤ 15) :
    s.withKeyIndex x k = k (s.readV x).toNat := if_neg (by omega)

theorem State.withKeyIndex_notKey (s : State) (x : Reg) (k : Nat → Result) (h : 15 < (s.readV x).toNat) :
    s.withKeyIndex x k = .fault (.keyIndexOutOfRange s.pc s.opcode (s.readV x)) := if_pos h

/-! ### The call stack -/

theorem State.push_room (s : State) (w : Word) (h : s.sp.val < 16) :
    s.push w = some { s with stack := s.stack.set s.sp.val w h, sp := ⟨s.sp.val + 1, by omega⟩ } := dif_pos h

theorem State.push_full (s : State) (w : Word) (h : s.sp.val = 16) : s.push w = none := dif_neg (by omega)

theorem State.pop_empty (s : State) (h : s.sp.val = 0) : s.pop = none := dif_pos h

theorem State.pop_some (s : State) (h : s.sp.val ≠ 0) :
    s.pop = some (s.stack.get ⟨s.sp.val - 1, by have := s.sp.isLt; omega⟩,
      { s with sp := ⟨s.sp.val - 1, by have := s.sp.isLt; omega⟩ }) := dif_neg h

/-- A push answers a state only with room, and then it is this one. -/
theorem State.push_eq_some {s t : State} {w : Word} (h : s.push w = some t) :
    ∃ h : s.sp.val < 16, t = { s with stack := s.stack.set s.sp.val w h, sp := ⟨s.sp.val + 1, by omega⟩ } := by
  by_cases hs : s.sp.val < 16
  · rw [State.push_room s w hs, Option.some.injEq] at h
    exact ⟨hs, h.symm⟩
  · rw [State.push, dif_neg hs] at h
    cases h

/-- A pop answers a word only from a stack that is not empty: the word of the slot below sp, and sp one less. -/
theorem State.pop_eq_some {s t : State} {w : Word} (h : s.pop = some (w, t)) :
    ∃ k : Fin 16, s.sp.val = k.val + 1 ∧ w = s.stack.get k ∧ t = { s with sp := ⟨k.val, by omega⟩ } := by
  by_cases hs : s.sp.val = 0
  · rw [State.pop_empty s hs] at h
    cases h
  · rw [State.pop_some s hs, Option.some.injEq, Prod.mk.injEq] at h
    exact ⟨⟨s.sp.val - 1, by have := s.sp.isLt; omega⟩, by simp; omega, h.1.symm, h.2.symm⟩

/-! ### Keys -/

theorem State.leastKey_eq_none (s : State) : s.leastKey = none ↔ ∀ i < 16, s.keyDown i = false := by
  simp [State.leastKey, List.find?_eq_none]

theorem State.leastKey_eq_some (s : State) (k : Nat) :
    s.leastKey = some k ↔ k < 16 ∧ s.keyDown k = true ∧ ∀ i < k, s.keyDown i = false := by
  rw [State.leastKey, List.find?_range_eq_some]
  simp only [List.mem_range, Bool.not_eq_true']
  tauto

/-! ### The tick -/

theorem tickTimer_toNat (t : Byte) : (tickTimer t).toNat = t.toNat - 1 := by
  unfold tickTimer
  split
  · simp_all
  · rename_i h
    have ht : t.toNat ≠ 0 := fun h' => h (BitVec.eq_of_toNat_eq (by simpa using h'))
    have := t.isLt
    rw [BitVec.toNat_sub]
    simp
    omega

/-! ### The register block and the decimal digits -/

@[simp] theorem State.regBlock_length (s : State) (x : Reg) : (s.regBlock x).length = x.val + 1 := by
  simp [State.regBlock]

theorem State.regBlock_getD (s : State) (x i : Reg) (h : i ≤ x) : (s.regBlock x).getD i.val 0 = s.readV i := by
  have hi : i.val < x.val + 1 := Nat.lt_succ_of_le h
  simp [State.regBlock, State.readV_eq, List.getD_eq_getElem?_getD, hi]

@[simp] theorem decimalDigits_length (b : Byte) : (decimalDigits b).length = 3 := rfl

theorem decimalDigits_toNat (b : Byte) :
    (decimalDigits b).map BitVec.toNat = [b.toNat / 100, b.toNat / 10 % 10, b.toNat % 10] := by
  have := b.isLt
  simp only [decimalDigits, List.map_cons, List.map_nil, BitVec.toNat_ofNat]
  congr 1
  · omega
  · congr 1
    · omega
    · congr 1
      omega

/-! ### Flags -/

@[simp] theorem flagByte_toNat (b : Bool) : (flagByte b).toNat = if b then 1 else 0 := by
  cases b <;> rfl

end Sys2Proof.Machine
end

