-- ==== Sys2Proof/Laws/Exec.lean ====
section
/-! SUPPORT. What an instruction can do, said once: the next state of each instruction that can also fault or wait, the
faults, and that no instruction is refused. Every other instruction answers one next state, by rfl. -/

namespace Sys2Proof.Machine

/-! ### The next state -/

theorem exec_ret_next {s t : State} (h : exec .ret s = .next t) :
    ∃ k : Fin 16, s.sp.val = k.val + 1 ∧ t = { s with sp := k.castSucc, pc := s.stack.get k } := by
  change execRet s = .next t at h
  simp only [execRet] at h
  split at h
  · simp at h
  · rename_i hq
    obtain ⟨k, hk, rfl, rfl⟩ := State.pop_eq_some hq
    exact ⟨k, hk, (Host.Outcome.next.inj h).symm⟩

theorem exec_call_next {s t : State} {nnn : Word} (h : exec (.call nnn) s = .next t) :
    ∃ hs : s.sp.val < 16,
      t = { s with stack := s.stack.set s.sp.val (s.pc + 2) hs, sp := ⟨s.sp.val + 1, by omega⟩, pc := nnn } := by
  change execCall nnn s = .next t at h
  simp only [execCall] at h
  split at h
  · simp at h
  · rename_i hq
    obtain ⟨hs, rfl⟩ := State.push_eq_some hq
    exact ⟨hs, (Host.Outcome.next.inj h).symm⟩

theorem exec_skp_next {s t : State} {x : Reg} (h : exec (.skp x) s = .next t) :
    (s.readV x).toNat ≤ 15 ∧ t = s.skipIf (s.keyDown (s.readV x).toNat) := by
  change execSkp x s = .next t at h
  simp only [execSkp, State.withKeyIndex] at h
  split at h
  · simp at h
  · exact ⟨by omega, (Host.Outcome.next.inj h).symm⟩

theorem exec_sknp_next {s t : State} {x : Reg} (h : exec (.sknp x) s = .next t) :
    (s.readV x).toNat ≤ 15 ∧ t = s.skipIf (!s.keyDown (s.readV x).toNat) := by
  change execSknp x s = .next t at h
  simp only [execSknp, State.withKeyIndex] at h
  split at h
  · simp at h
  · exact ⟨by omega, (Host.Outcome.next.inj h).symm⟩

theorem exec_ldVxK_next {s t : State} {x : Reg} (h : exec (.ldVxK x) s = .next t) :
    (s.leastKey = none ∧ t = s) ∨ ∃ k, s.leastKey = some k ∧ t = (s.writeV x (BitVec.ofNat 8 k)).advance := by
  change execLdVxK x s = .next t at h
  simp only [execLdVxK] at h
  split at h
  · exact .inl ⟨by assumption, (Host.Outcome.next.inj h).symm⟩
  · exact .inr ⟨_, by assumption, (Host.Outcome.next.inj h).symm⟩

theorem exec_drw_next {s t : State} {x y : Reg} {n : Nat} (h : exec (.drw x y n) s = .next t) :
    (0 < n → s.I.toNat + n ≤ 0x1000) ∧
      t = ({ s with gfx := (s.drawn x y n).gfx, drawFlag := true }.writeFlag (s.drawn x y n).collision).advance :=
  (s.withAccess_eq_next _ _ _).1 h

theorem exec_ldBVx_next {s t : State} {x : Reg} (h : exec (.ldBVx x) s = .next t) :
    s.I.toNat + 3 ≤ 0x1000 ∧ t = (s.storeAtI (decimalDigits (s.readV x))).advance :=
  ((s.withAccess_eq_next _ _ _).1 h).imp_left fun hs => hs (by omega)

theorem exec_ldMiVx_next {s t : State} {x : Reg} (h : exec (.ldMiVx x) s = .next t) :
    s.I.toNat + (x.val + 1) ≤ 0x1000 ∧ t = ((s.storeAtI (s.regBlock x)).stepI x).advance :=
  ((s.withAccess_eq_next _ _ _).1 h).imp_left fun hs => hs (by omega)

theorem exec_ldVxMi_next {s t : State} {x : Reg} (h : exec (.ldVxMi x) s = .next t) :
    s.I.toNat + (x.val + 1) ≤ 0x1000 ∧ t = ((s.loadBlock x).stepI x).advance :=
  ((s.withAccess_eq_next _ _ _).1 h).imp_left fun hs => hs (by omega)

/-! ### Faults and refusals -/

theorem exec_ret_fault (s : State) (f : Fault) :
    exec .ret s = .fault f ↔ s.sp.val = 0 ∧ f = .stackUnderflow s.pc s.opcode := by
  change execRet s = .fault f ↔ _
  simp only [execRet]
  by_cases h : s.sp.val = 0
  · simp [s.pop_empty h, State.raise, h, eq_comm]
  · simp [s.pop_some h, h]

theorem exec_call_fault (s : State) (nnn : Word) (f : Fault) :
    exec (.call nnn) s = .fault f ↔ s.sp.val = 16 ∧ f = .stackOverflow s.pc s.opcode := by
  change execCall nnn s = .fault f ↔ _
  simp only [execCall]
  by_cases h : s.sp.val = 16
  · simp [s.push_full _ h, State.raise, h, eq_comm]
  · rw [s.push_room (s.pc + 2) (by omega)]
    simp [h]

theorem exec_skp_fault (s : State) (x : Reg) (f : Fault) :
    exec (.skp x) s = .fault f ↔ 15 < (s.readV x).toNat ∧ f = .keyIndexOutOfRange s.pc s.opcode (s.readV x) := by
  change execSkp x s = .fault f ↔ _
  simp only [execSkp]
  by_cases h : 15 < (s.readV x).toNat
  · simp [s.withKeyIndex_notKey x _ h, h, eq_comm]
  · simp [s.withKeyIndex_key x _ (by omega), h]

theorem exec_sknp_fault (s : State) (x : Reg) (f : Fault) :
    exec (.sknp x) s = .fault f ↔ 15 < (s.readV x).toNat ∧ f = .keyIndexOutOfRange s.pc s.opcode (s.readV x) := by
  change execSknp x s = .fault f ↔ _
  simp only [execSknp]
  by_cases h : 15 < (s.readV x).toNat
  · simp [s.withKeyIndex_notKey x _ h, h, eq_comm]
  · simp [s.withKeyIndex_key x _ (by omega), h]

/-- No instruction is refused, in any state. -/
theorem exec_ne_refused (i : Instr) (s : State) (r : Refusal) : exec i s ≠ .refused r := by
  cases i <;> try (intro h; cases h)
  case ret =>
    change execRet s ≠ .refused r
    simp only [execRet]
    split <;> simp [State.raise]
  case call nnn =>
    change execCall nnn s ≠ .refused r
    simp only [execCall]
    split <;> simp [State.raise]
  case skp x =>
    change execSkp x s ≠ .refused r
    simp only [execSkp, State.withKeyIndex]
    split <;> simp [State.raise]
  case sknp x =>
    change execSknp x s ≠ .refused r
    simp only [execSknp, State.withKeyIndex]
    split <;> simp [State.raise]
  case ldVxK x =>
    change execLdVxK x s ≠ .refused r
    simp only [execLdVxK]
    split <;> simp
  all_goals exact s.withAccess_ne_refused _ _ _

end Sys2Proof.Machine
end

