-- ==== Sys2Proof/Laws/Graphics.lean ====
section
/-! SUPPORT. The framebuffer's own laws: a flip changes one cell, the cell of a sprite pixel lies inside, the clear screen,
and what one sprite pixel does to the canvas. -/

namespace Sys2Proof.Machine

/-- The cell of every sprite pixel is one of the 2048 cells (R213: "no pixel ever falls outside"). -/
theorem cellIndex_lt (vx vy : Byte) (r c : Nat) : cellIndex vx vy r c < 2048 := by
  unfold cellIndex
  omega

theorem rowAt_eq (g : Gfx) (r : Nat) (h : r < 32) : rowAt g r = g[r] := by
  simp [rowAt, Vector.getD, h]

/-- A flip inverts its own cell and leaves every other cell alone. -/
theorem cellAt_flipCell (g : Gfx) (i j : Nat) (hi : i < 2048) (hj : j < 2048) :
    cellAt (flipCell g i) j = (cellAt g j ^^ decide (i = j)) := by
  have hi' : i / 64 < 32 := by omega
  have hj' : j / 64 < 32 := by omega
  simp only [cellAt, rowAt_eq _ _ hj', flipCell, rowAt_eq _ _ hi', Vector.getElem_setIfInBounds]
  by_cases hrow : i / 64 = j / 64
  · rw [if_pos hrow]
    have hij : (i = j) ↔ (i % 64 = j % 64) := by omega
    simp only [BitVec.getLsbD_xor, BitVec.getLsbD_twoPow, hij, hrow]
    congr 1
    have : i % 64 < 64 := by omega
    simp [this]
  · rw [if_neg hrow]
    have hij : ¬ i = j := fun h => hrow (by rw [h])
    simp [hij]

@[simp] theorem cellAt_clearGfx (i : Nat) : cellAt clearGfx i = false := by
  unfold cellAt rowAt clearGfx
  by_cases h : i / 64 < 32 <;> simp [Vector.getD, h]

/-- Two framebuffers with the same 2048 cells are the same. -/
theorem gfx_ext (g h : Gfx) (e : ∀ i < 2048, cellAt g i = cellAt h i) : g = h := by
  ext r hr c hc
  have := e (64 * r + c) (by omega)
  have hd : (64 * r + c) / 64 = r := by omega
  have hm : (64 * r + c) % 64 = c := by omega
  simpa [cellAt, hd, hm, rowAt_eq _ _ hr, BitVec.getLsbD_eq_getElem, hc] using this

theorem Canvas.drawPixel_clearBit (p : Canvas) (vx vy : Byte) (r : Nat) (b : Byte) (c : Nat)
    (h : spriteBit b c = false) : p.drawPixel vx vy r b c = p := by
  simp [Canvas.drawPixel, h]

theorem Canvas.drawPixel_setBit (p : Canvas) (vx vy : Byte) (r : Nat) (b : Byte) (c : Nat)
    (h : spriteBit b c = true) :
    p.drawPixel vx vy r b c =
      ⟨flipCell p.gfx (cellIndex vx vy r c), p.collision || cellAt p.gfx (cellIndex vx vy r c)⟩ := by
  simp [Canvas.drawPixel, h]

end Sys2Proof.Machine
end

