-- ==== Sys2Proof/Laws/Memory.lean ====
section
/-! SUPPORT. The laws of main memory: a read after a write, and that every memory operation keeps the canonical form. -/

namespace Sys2Proof.Machine

@[simp] theorem Memory.read_nil (a : Nat) : Memory.read [] a = initialByte a := rfl

theorem Memory.read_cons (c : Nat) (v : Byte) (rest : Memory) (a : Nat) :
    Memory.read ((c, v) :: rest) a = if c = a then v else Memory.read rest a := rfl

theorem Memory.wfFrom_cons (lo a : Nat) (b : Byte) (rest : Memory) :
    Memory.wfFrom lo ((a, b) :: rest) = true ↔
      lo ≤ a ∧ a < 0x1000 ∧ b ≠ initialByte a ∧ Memory.wfFrom (a + 1) rest = true := by
  simp [Memory.wfFrom, and_assoc]

theorem Memory.wfFrom_mono {lo lo' : Nat} (h : lo ≤ lo') :
    ∀ {m : Memory}, Memory.wfFrom lo' m = true → Memory.wfFrom lo m = true
  | [], _ => rfl
  | (a, b) :: rest, hm => by
    rw [Memory.wfFrom_cons] at hm ⊢
    exact ⟨h.trans hm.1, hm.2⟩

/-- Below its lowest listed address a memory reads as the reset contents. -/
theorem Memory.read_below {lo : Nat} :
    ∀ {m : Memory} {a : Nat}, Memory.wfFrom lo m = true → a < lo → Memory.read m a = initialByte a
  | [], _, _, _ => rfl
  | (c, v) :: rest, a, hm, ha => by
    rw [Memory.wfFrom_cons] at hm
    rw [Memory.read_cons, if_neg (by omega)]
    exact Memory.read_below hm.2.2.2 (by omega)

theorem Memory.read_consCell_ne (a c : Nat) (b : Byte) (rest : Memory) (h : a ≠ c) :
    Memory.read (Memory.consCell a b rest) c = Memory.read rest c := by
  unfold Memory.consCell
  split
  · rfl
  · rw [Memory.read_cons, if_neg h]

theorem Memory.read_consCell_same {lo : Nat} (a : Nat) (b : Byte) (rest : Memory)
    (hm : Memory.wfFrom lo rest = true) (ha : a < lo) : Memory.read (Memory.consCell a b rest) a = b := by
  unfold Memory.consCell
  split
  · rename_i hb
    rw [Memory.read_below hm ha, hb]
  · rw [Memory.read_cons, if_pos rfl]

/-- A write leaves every other address alone, in every memory. -/
theorem Memory.read_write_ne : ∀ (m : Memory) (a c : Nat) (b : Byte), a ≠ c →
    Memory.read (Memory.write m a b) c = Memory.read m c
  | [], a, c, b, h => by simp [Memory.write, Memory.read_consCell_ne a c b [] h]
  | (d, v) :: rest, a, c, b, h => by
    unfold Memory.write
    split
    · exact Memory.read_consCell_ne a c b _ h
    · split
      · rename_i had
        rw [Memory.read_consCell_ne a c b rest h, Memory.read_cons, if_neg (by omega)]
      · rw [Memory.read_cons, Memory.read_cons, Memory.read_write_ne rest a c b h]

/-- A read of the written address gives the byte written. -/
theorem Memory.read_write_same {lo : Nat} : ∀ (m : Memory) (a : Nat) (b : Byte), Memory.wfFrom lo m = true →
    Memory.read (Memory.write m a b) a = b
  | [], a, b, _ => Memory.read_consCell_same (lo := a + 1) a b [] rfl (by omega)
  | (d, v) :: rest, a, b, hm => by
    have hm' := (Memory.wfFrom_cons lo d v rest).1 hm
    unfold Memory.write
    split
    · refine Memory.read_consCell_same (lo := d) a b _ ?_ (by assumption)
      exact (Memory.wfFrom_cons d d v rest).2 ⟨le_rfl, hm'.2⟩
    · split
      · exact Memory.read_consCell_same (lo := d + 1) a b rest hm'.2.2.2 (by omega)
      · rw [Memory.read_cons, if_neg (by omega)]
        exact Memory.read_write_same rest a b hm'.2.2.2

theorem Memory.wfFrom_consCell {lo : Nat} (a : Nat) (b : Byte) (rest : Memory) (hlo : lo ≤ a) (ha : a < 0x1000)
    (hm : Memory.wfFrom (a + 1) rest = true) : Memory.wfFrom lo (Memory.consCell a b rest) = true := by
  unfold Memory.consCell
  split
  · exact Memory.wfFrom_mono (by omega) hm
  · exact (Memory.wfFrom_cons lo a b rest).2 ⟨hlo, ha, by assumption, hm⟩

theorem Memory.wfFrom_write {lo : Nat} : ∀ (m : Memory) (a : Nat) (b : Byte), lo ≤ a → a < 0x1000 →
    Memory.wfFrom lo m = true → Memory.wfFrom lo (Memory.write m a b) = true
  | [], a, b, hlo, ha, _ => Memory.wfFrom_consCell a b [] hlo ha rfl
  | (d, v) :: rest, a, b, hlo, ha, hm => by
    have hm' := (Memory.wfFrom_cons lo d v rest).1 hm
    unfold Memory.write
    split
    · exact Memory.wfFrom_consCell a b _ hlo ha ((Memory.wfFrom_cons (a + 1) d v rest).2 ⟨by omega, hm'.2⟩)
    · split
      · subst_vars
        exact Memory.wfFrom_consCell _ b rest hlo ha hm'.2.2.2
      · exact (Memory.wfFrom_cons lo d v _).2
          ⟨hm'.1, hm'.2.1, hm'.2.2.1, Memory.wfFrom_write rest a b (by omega) ha hm'.2.2.2⟩

/-- A write inside memory keeps the canonical form. -/
theorem Memory.wf_write (m : Memory) (a : Nat) (b : Byte) (ha : a < 0x1000) (hm : m.wf = true) :
    (Memory.write m a b).wf = true := Memory.wfFrom_write m a b (Nat.zero_le a) ha hm

@[simp] theorem Memory.writeBytes_nil (m : Memory) (a : Nat) : Memory.writeBytes m a [] = m := rfl

theorem Memory.writeBytes_cons (m : Memory) (a : Nat) (b : Byte) (bs : List Byte) :
    Memory.writeBytes m a (b :: bs) = Memory.writeBytes (Memory.write m a b) (a + 1) bs := rfl

/-- Writing a block inside memory keeps the canonical form. -/
theorem Memory.wf_writeBytes : ∀ (bs : List Byte) (m : Memory) (a : Nat), a + bs.length ≤ 0x1000 → m.wf = true →
    (Memory.writeBytes m a bs).wf = true
  | [], _, _, _, hm => hm
  | b :: bs, m, a, ha, hm => by
    rw [List.length_cons] at ha
    rw [Memory.writeBytes_cons]
    exact Memory.wf_writeBytes bs _ (a + 1) (by omega) (Memory.wf_write m a b (by omega) hm)

/-- A block write leaves every address outside the block alone, in every memory. -/
theorem Memory.read_writeBytes_outside : ∀ (bs : List Byte) (m : Memory) (a c : Nat), c < a ∨ a + bs.length ≤ c →
    Memory.read (Memory.writeBytes m a bs) c = Memory.read m c
  | [], _, _, _, _ => rfl
  | b :: bs, m, a, c, h => by
    rw [List.length_cons] at h
    rw [Memory.writeBytes_cons, Memory.read_writeBytes_outside bs _ (a + 1) c (by omega),
      Memory.read_write_ne m a c b (by omega)]

/-- A block write puts byte k of the block at `a + k`. -/
theorem Memory.read_writeBytes_inside : ∀ (bs : List Byte) (m : Memory) (a k : Nat), m.wf = true →
    a + bs.length ≤ 0x1000 → k < bs.length → Memory.read (Memory.writeBytes m a bs) (a + k) = bs.getD k 0
  | [], _, _, _, _, _, hk => absurd hk (by simp)
  | b :: bs, m, a, k, hm, ha, hk => by
    rw [List.length_cons] at ha hk
    rw [Memory.writeBytes_cons]
    cases k with
    | zero =>
      rw [Memory.read_writeBytes_outside bs _ (a + 1) (a + 0) (by omega)]
      exact Memory.read_write_same m a b hm
    | succ k =>
      have h := Memory.read_writeBytes_inside bs (Memory.write m a b) (a + 1) k
        (Memory.wf_write m a b (by omega) hm) (by omega) (by omega)
      rw [show a + (k + 1) = a + 1 + k by omega, h]
      rfl

end Sys2Proof.Machine
end

