-- ==== Sys2Proof/Laws/PerInstr.lean ====
section
/-! SUPPORT. Statements about every instruction as syntax, one lemma per constructor. The family EncodeMatches: the word of a
well-formed instruction is a word of the instruction's own row of the opcode map (spec R96, R106). -/

namespace Sys2Proof.Laws

/-- The word of `i` matches `i`'s row: `word & mask = match`. -/
def EncodeMatches.Statement (i : Instr) : Prop := i.wellFormed = true → i.row.matchesWord (encode i) = true

theorem placeX_mask (x : Reg) (m : Word) (h : 0x0F00 &&& m = 0#16) : placeX x &&& m = 0#16 := by
  have hx : placeX x = placeX x &&& 0x0F00 := by revert x; decide
  rw [hx, BitVec.and_assoc, h, BitVec.and_zero]

theorem placeY_mask (y : Reg) (m : Word) (h : 0x00F0 &&& m = 0#16) : placeY y &&& m = 0#16 := by
  have hy : placeY y = placeY y &&& 0x00F0 := by revert y; decide
  rw [hy, BitVec.and_assoc, h, BitVec.and_zero]

/-- A word below 2^k has nothing in common with a mask of bits from k up. -/
theorem low_mask (w : Word) (k : Nat) (hw : w.toNat < 2 ^ k) (m : Word) (hm : m >>> k <<< k = m) : w &&& m = 0#16 := by
  refine BitVec.eq_of_getLsbD_eq (fun i _ => ?_)
  rw [BitVec.getLsbD_and, BitVec.getLsbD_zero]
  by_cases h : i < k
  · have : m.getLsbD i = false := by
      rw [← hm, BitVec.getLsbD_shiftLeft]
      simp [h]
    rw [this, Bool.and_false]
  · have : w.getLsbD i = false :=
      Nat.testBit_lt_two_pow (Nat.lt_of_lt_of_le hw (Nat.pow_le_pow_right (by omega) (by omega)))
    rw [this, Bool.false_and]

theorem placeKk_mask (kk : Byte) (m : Word) (h : m >>> 8 <<< 8 = m) : placeKk kk &&& m = 0#16 :=
  low_mask _ 8 (by have := kk.isLt; simp only [placeKk, BitVec.toNat_setWidth]; omega) m h

theorem nnn_mask (nnn : Word) (h : fitsNnn nnn = true) : nnn &&& 0xF000 = 0#16 :=
  low_mask nnn 12 (by simpa [fitsNnn] using h) 0xF000 (by decide)

theorem encodeXK_match (p : Word) (x : Reg) (kk : Byte) (hp : p &&& 0xF000 = p) : encodeXK p x kk &&& 0xF000 = p := by
  rw [encodeXK, BitVec.and_or_distrib_right, BitVec.and_or_distrib_right, placeX_mask x _ (by decide),
    placeKk_mask kk _ (by decide), hp, BitVec.or_zero, BitVec.or_zero]

theorem encodeXY_match (p : Word) (x y : Reg) (hp : p &&& 0xF00F = p) : encodeXY p x y &&& 0xF00F = p := by
  rw [encodeXY, BitVec.and_or_distrib_right, BitVec.and_or_distrib_right, placeX_mask x _ (by decide),
    placeY_mask y _ (by decide), hp, BitVec.or_zero, BitVec.or_zero]

theorem encodeX_match (p : Word) (x : Reg) (hp : p &&& 0xF0FF = p) : encodeX p x &&& 0xF0FF = p := by
  rw [encodeX, BitVec.and_or_distrib_right, placeX_mask x _ (by decide), hp, BitVec.or_zero]

theorem encodeA_match (p nnn : Word) (hp : p &&& 0xF000 = p) (h : fitsNnn nnn = true) : (p ||| nnn) &&& 0xF000 = p := by
  rw [BitVec.and_or_distrib_right, nnn_mask nnn h, hp, BitVec.or_zero]

theorem EncodeMatches.cls : EncodeMatches.Statement .cls := fun _ => by decide

theorem EncodeMatches.ret : EncodeMatches.Statement .ret := fun _ => by decide

theorem EncodeMatches.jp (nnn : Word) : EncodeMatches.Statement (.jp nnn) := fun h =>
  beq_iff_eq.2 (encodeA_match _ nnn (by decide) h)

theorem EncodeMatches.call (nnn : Word) : EncodeMatches.Statement (.call nnn) := fun h =>
  beq_iff_eq.2 (encodeA_match _ nnn (by decide) h)

theorem EncodeMatches.seVxKk (x : Reg) (kk : Byte) : EncodeMatches.Statement (.seVxKk x kk) := fun _ =>
  beq_iff_eq.2 (encodeXK_match _ x kk (by decide))

theorem EncodeMatches.sneVxKk (x : Reg) (kk : Byte) : EncodeMatches.Statement (.sneVxKk x kk) := fun _ =>
  beq_iff_eq.2 (encodeXK_match _ x kk (by decide))

theorem EncodeMatches.seVxVy (x : Reg) (y : Reg) : EncodeMatches.Statement (.seVxVy x y) := fun _ =>
  beq_iff_eq.2 (encodeXY_match _ x y (by decide))

theorem EncodeMatches.ldVxKk (x : Reg) (kk : Byte) : EncodeMatches.Statement (.ldVxKk x kk) := fun _ =>
  beq_iff_eq.2 (encodeXK_match _ x kk (by decide))

theorem EncodeMatches.addVxKk (x : Reg) (kk : Byte) : EncodeMatches.Statement (.addVxKk x kk) := fun _ =>
  beq_iff_eq.2 (encodeXK_match _ x kk (by decide))

theorem EncodeMatches.ldVxVy (x : Reg) (y : Reg) : EncodeMatches.Statement (.ldVxVy x y) := fun _ =>
  beq_iff_eq.2 (encodeXY_match _ x y (by decide))

theorem EncodeMatches.orVxVy (x : Reg) (y : Reg) : EncodeMatches.Statement (.orVxVy x y) := fun _ =>
  beq_iff_eq.2 (encodeXY_match _ x y (by decide))

theorem EncodeMatches.andVxVy (x : Reg) (y : Reg) : EncodeMatches.Statement (.andVxVy x y) := fun _ =>
  beq_iff_eq.2 (encodeXY_match _ x y (by decide))

theorem EncodeMatches.xorVxVy (x : Reg) (y : Reg) : EncodeMatches.Statement (.xorVxVy x y) := fun _ =>
  beq_iff_eq.2 (encodeXY_match _ x y (by decide))

theorem EncodeMatches.addVxVy (x : Reg) (y : Reg) : EncodeMatches.Statement (.addVxVy x y) := fun _ =>
  beq_iff_eq.2 (encodeXY_match _ x y (by decide))

theorem EncodeMatches.subVxVy (x : Reg) (y : Reg) : EncodeMatches.Statement (.subVxVy x y) := fun _ =>
  beq_iff_eq.2 (encodeXY_match _ x y (by decide))

theorem EncodeMatches.shrVx (x : Reg) (y : Reg) : EncodeMatches.Statement (.shrVx x y) := fun _ =>
  beq_iff_eq.2 (encodeXY_match _ x y (by decide))

theorem EncodeMatches.subnVxVy (x : Reg) (y : Reg) : EncodeMatches.Statement (.subnVxVy x y) := fun _ =>
  beq_iff_eq.2 (encodeXY_match _ x y (by decide))

theorem EncodeMatches.shlVx (x : Reg) (y : Reg) : EncodeMatches.Statement (.shlVx x y) := fun _ =>
  beq_iff_eq.2 (encodeXY_match _ x y (by decide))

theorem EncodeMatches.sneVxVy (x : Reg) (y : Reg) : EncodeMatches.Statement (.sneVxVy x y) := fun _ =>
  beq_iff_eq.2 (encodeXY_match _ x y (by decide))

theorem EncodeMatches.ldINnn (nnn : Word) : EncodeMatches.Statement (.ldINnn nnn) := fun h =>
  beq_iff_eq.2 (encodeA_match _ nnn (by decide) h)

theorem EncodeMatches.jpV0 (nnn : Word) : EncodeMatches.Statement (.jpV0 nnn) := fun h =>
  beq_iff_eq.2 (encodeA_match _ nnn (by decide) h)

theorem EncodeMatches.rnd (x : Reg) (kk : Byte) : EncodeMatches.Statement (.rnd x kk) := fun _ =>
  beq_iff_eq.2 (encodeXK_match _ x kk (by decide))

theorem EncodeMatches.drw (x : Reg) (y : Reg) (n : Nat) : EncodeMatches.Statement (.drw x y n) := by
  intro h
  have hn : n < 16 := by simpa [Instr.wellFormed, fitsN] using h
  have hx : BitVec.ofNat 16 n &&& (0xF000 : Word) = 0#16 :=
    low_mask _ 4 (by rw [BitVec.toNat_ofNat]; omega) 0xF000 (by decide)
  refine beq_iff_eq.2 ?_
  show (encodeXY 0xD000 x y ||| BitVec.ofNat 16 n) &&& 0xF000 = 0xD000
  rw [BitVec.and_or_distrib_right, hx, BitVec.or_zero, encodeXY, BitVec.and_or_distrib_right,
    BitVec.and_or_distrib_right, placeX_mask x _ (by decide), placeY_mask y _ (by decide)]
  decide

theorem EncodeMatches.skp (x : Reg) : EncodeMatches.Statement (.skp x) := fun _ =>
  beq_iff_eq.2 (encodeX_match _ x (by decide))

theorem EncodeMatches.sknp (x : Reg) : EncodeMatches.Statement (.sknp x) := fun _ =>
  beq_iff_eq.2 (encodeX_match _ x (by decide))

theorem EncodeMatches.ldVxDt (x : Reg) : EncodeMatches.Statement (.ldVxDt x) := fun _ =>
  beq_iff_eq.2 (encodeX_match _ x (by decide))

theorem EncodeMatches.ldVxK (x : Reg) : EncodeMatches.Statement (.ldVxK x) := fun _ =>
  beq_iff_eq.2 (encodeX_match _ x (by decide))

theorem EncodeMatches.ldDtVx (x : Reg) : EncodeMatches.Statement (.ldDtVx x) := fun _ =>
  beq_iff_eq.2 (encodeX_match _ x (by decide))

theorem EncodeMatches.ldStVx (x : Reg) : EncodeMatches.Statement (.ldStVx x) := fun _ =>
  beq_iff_eq.2 (encodeX_match _ x (by decide))

theorem EncodeMatches.addIVx (x : Reg) : EncodeMatches.Statement (.addIVx x) := fun _ =>
  beq_iff_eq.2 (encodeX_match _ x (by decide))

theorem EncodeMatches.ldFVx (x : Reg) : EncodeMatches.Statement (.ldFVx x) := fun _ =>
  beq_iff_eq.2 (encodeX_match _ x (by decide))

theorem EncodeMatches.ldBVx (x : Reg) : EncodeMatches.Statement (.ldBVx x) := fun _ =>
  beq_iff_eq.2 (encodeX_match _ x (by decide))

theorem EncodeMatches.ldMiVx (x : Reg) : EncodeMatches.Statement (.ldMiVx x) := fun _ =>
  beq_iff_eq.2 (encodeX_match _ x (by decide))

theorem EncodeMatches.ldVxMi (x : Reg) : EncodeMatches.Statement (.ldVxMi x) := fun _ =>
  beq_iff_eq.2 (encodeX_match _ x (by decide))

end Sys2Proof.Laws
end

