-- ==== Sys2Proof/Laws/Step.lean ====
section
/-! SUPPORT. What a step can do, said once: how a step that answers a next state, a fault or a refusal came about. -/

namespace Sys2Proof.Machine

theorem State.canFetch_iff (s : State) : s.canFetch = true ↔ s.pc.toNat ≤ 0xFFE := by simp [State.canFetch]

theorem State.canFetch_false_iff (s : State) : s.canFetch = false ↔ 0xFFE < s.pc.toNat := by simp [State.canFetch]

/-- A step of a decoded instruction is its meaning on the state with the word latched, closed by the tick. -/
theorem step_instr {s : State} {i : Instr} (hpc : s.canFetch = true) (hi : decode s.fetchWord = .instr i) :
    step s = closeStep (exec i (s.latchOpcode s.fetchWord)) := by
  simp [step, executePhase, dispatchWord, hpc, hi]

theorem step_unknown {s : State} {w : Word} (hpc : s.canFetch = true) (hw : decode s.fetchWord = .unknown w) :
    step s = .fault (.unknownOpcode s.pc s.fetchWord) := by
  simp [step, executePhase, dispatchWord, hpc, hw, State.raise, closeStep]

theorem step_outOfRange {s : State} (hpc : s.canFetch = false) : step s = .fault (.pcOutOfRange s.pc s.opcode) := by
  simp [step, executePhase, hpc, State.raise, closeStep]

/-- Every step is one of the three: pc out of range, an unknown word, or a decoded instruction. -/
theorem step_cases (s : State) :
    (s.canFetch = false ∧ step s = .fault (.pcOutOfRange s.pc s.opcode)) ∨
    (s.canFetch = true ∧ (∃ w, decode s.fetchWord = .unknown w) ∧
      step s = .fault (.unknownOpcode s.pc s.fetchWord)) ∨
    (s.canFetch = true ∧ ∃ i, decode s.fetchWord = .instr i ∧
      step s = closeStep (exec i (s.latchOpcode s.fetchWord))) := by
  cases hpc : s.canFetch with
  | false => exact .inl ⟨rfl, step_outOfRange hpc⟩
  | true =>
    cases hd : decode s.fetchWord with
    | instr i => exact .inr (.inr ⟨rfl, i, rfl, step_instr hpc hd⟩)
    | unknown w => exact .inr (.inl ⟨rfl, ⟨w, rfl⟩, step_unknown hpc hd⟩)

@[simp] theorem closeStep_next (t : State) : closeStep (.next t) = .next t.tick.endInput := rfl

@[simp] theorem closeStep_fault (f : Fault) : closeStep (.fault f) = .fault f := rfl

@[simp] theorem closeStep_refused (r : Refusal) : closeStep (.refused r) = .refused r := rfl

theorem closeStep_eq_next (r : Result) (u : State) :
    closeStep r = .next u ↔ ∃ t, r = .next t ∧ u = t.tick.endInput := by
  cases r <;> simp [eq_comm]

theorem closeStep_eq_fault (r : Result) (f : Fault) : closeStep r = .fault f ↔ r = .fault f := by
  cases r <;> simp

theorem closeStep_eq_refused (r : Result) (x : Refusal) : closeStep r = .refused x ↔ r = .refused x := by
  cases r <;> simp

/-- A successful step: a word was fetched, it decoded to an instruction, its meaning answered a state, and the tick and the
end of the input closed it. -/
theorem step_eq_next (s u : State) :
    step s = .next u ↔ s.canFetch = true ∧ ∃ i t, decode s.fetchWord = .instr i ∧
      exec i (s.latchOpcode s.fetchWord) = .next t ∧ u = t.tick.endInput := by
  rcases step_cases s with ⟨hpc, h⟩ | ⟨hpc, ⟨w, hw⟩, h⟩ | ⟨hpc, i, hi, h⟩
  · simp [h, hpc]
  · simp [h, hpc, hw]
  · simp [h, hpc, hi, closeStep_eq_next]

/-- A faulting step: one of the three sources of a fault. -/
theorem step_eq_fault (s : State) (f : Fault) :
    step s = .fault f ↔
      (s.canFetch = false ∧ f = .pcOutOfRange s.pc s.opcode) ∨
      (s.canFetch = true ∧ (∃ w, decode s.fetchWord = .unknown w) ∧ f = .unknownOpcode s.pc s.fetchWord) ∨
      (s.canFetch = true ∧ ∃ i, decode s.fetchWord = .instr i ∧
        exec i (s.latchOpcode s.fetchWord) = .fault f) := by
  rcases step_cases s with ⟨hpc, h⟩ | ⟨hpc, ⟨w, hw⟩, h⟩ | ⟨hpc, i, hi, h⟩
  · simp [h, hpc, eq_comm]
  · simp [h, hpc, hw, eq_comm]
  · simp [h, hpc, hi, closeStep_eq_fault]

end Sys2Proof.Machine
end

