-- ==== Sys2Proof/Tests/Slice0.lean ====
section
/-! SUPPORT. Tests: the decoding of words written out from R96, ill-formed terms, single steps with the expected results of
95_test_vectors.md (cited by their ids A1 to H10), and for every statement with hypotheses a witness that meets them. -/

namespace Sys2Proof.Tests

open Sys2Proof Sys2Proof.Machine Sys2Proof.Claims

/-! ## Helpers -/

/-- The start of the vectors: after `initialize` and `clear_draw_flag`. -/
def start : State := State.reset.clearDrawFlag

/-- `s` with registers set. -/
def withRegs (s : State) : List (Reg × Byte) → State
  | [] => s
  | (x, b) :: rest => withRegs (s.writeV x b) rest

/-- `s` with bytes stored from `a`. -/
def withBytes (s : State) (a : Nat) (bytes : List Byte) : State := { s with mem := s.mem.writeBytes a bytes }

/-- `s` with the cells (row, col) inverted. -/
def withCells (s : State) : List (Nat × Nat) → State
  | [] => s
  | (r, c) :: rest => withCells { s with gfx := flipCell s.gfx (64 * r + c) } rest

/-- One step on the word `w` from `s`. -/
def runs (w : Nat) (s : State) : Result := step (s.withFetchWord 16 w)

/-- The step on `w` from `s` is Ok and its end state meets `p`. -/
def ok (w : Nat) (s : State) (p : State → Bool) : Bool :=
  match runs w s with
  | .next t => p t
  | .fault _ => false
  | .refused _ => false

/-- The step from `s` raises exactly the fault `f`. -/
def stepFaults (s : State) (f : Fault) : Bool :=
  match step s with
  | .next _ => false
  | .fault g => g == f
  | .refused _ => false

/-- The registers hold these values. -/
def regs (t : State) : List (Reg × Byte) → Bool
  | [] => true
  | (x, b) :: rest => t.readV x == b && regs t rest

/-- The memory bytes from `a`. -/
def bytesAt (t : State) (a n : Nat) : List Byte := (List.range n).map (fun k => t.mem.read (a + k))

/-- Exactly these cells (row, col) are lit, and the draw flag is set. -/
def lit (t : State) (cells : List (Nat × Nat)) : Bool :=
  decide (t.gfx = (withCells start cells).gfx) && t.drawFlag

/-! ## Decoding: words written out from the opcode map (R96) -/

theorem test_decode_cls : decode 0x00E0 = .instr .cls := by decide

theorem test_decode_ret : decode 0x00EE = .instr .ret := by decide

theorem test_decode_jp : decode 0x1ABC = .instr (.jp 0xABC) := by decide

theorem test_decode_call : decode 0x2DEF = .instr (.call 0xDEF) := by decide

theorem test_decode_seVxKk : decode 0x3344 = .instr (.seVxKk 3 0x44) := by decide

theorem test_decode_sneVxKk : decode 0x4A5C = .instr (.sneVxKk 10 0x5C) := by decide

theorem test_decode_seVxVy : decode 0x5340 = .instr (.seVxVy 3 4) := by decide

theorem test_decode_ldVxKk : decode 0x63AB = .instr (.ldVxKk 3 0xAB) := by decide

theorem test_decode_addVxKk : decode 0x7F01 = .instr (.addVxKk 15 1) := by decide

theorem test_decode_ldVxVy : decode 0x8120 = .instr (.ldVxVy 1 2) := by decide

theorem test_decode_orVxVy : decode 0x8CD1 = .instr (.orVxVy 12 13) := by decide

theorem test_decode_andVxVy : decode 0x8122 = .instr (.andVxVy 1 2) := by decide

theorem test_decode_xorVxVy : decode 0x8123 = .instr (.xorVxVy 1 2) := by decide

theorem test_decode_addVxVy : decode 0x8F24 = .instr (.addVxVy 15 2) := by decide

theorem test_decode_subVxVy : decode 0x8125 = .instr (.subVxVy 1 2) := by decide

theorem test_decode_shrVx : decode 0x81E6 = .instr (.shrVx 1 14) := by decide

theorem test_decode_subnVxVy : decode 0x8127 = .instr (.subnVxVy 1 2) := by decide

theorem test_decode_shlVx : decode 0x8ABE = .instr (.shlVx 10 11) := by decide

theorem test_decode_sneVxVy : decode 0x9340 = .instr (.sneVxVy 3 4) := by decide

theorem test_decode_ldINnn : decode 0xA123 = .instr (.ldINnn 0x123) := by decide

theorem test_decode_jpV0 : decode 0xBFFF = .instr (.jpV0 0xFFF) := by decide

theorem test_decode_rnd : decode 0xC30F = .instr (.rnd 3 0x0F) := by decide

theorem test_decode_drw : decode 0xD12F = .instr (.drw 1 2 15) := by decide

theorem test_decode_skp : decode 0xE39E = .instr (.skp 3) := by decide

theorem test_decode_sknp : decode 0xE3A1 = .instr (.sknp 3) := by decide

theorem test_decode_ldVxDt : decode 0xF307 = .instr (.ldVxDt 3) := by decide

theorem test_decode_ldVxK : decode 0xF50A = .instr (.ldVxK 5) := by decide

theorem test_decode_ldDtVx : decode 0xF315 = .instr (.ldDtVx 3) := by decide

theorem test_decode_ldStVx : decode 0xF318 = .instr (.ldStVx 3) := by decide

theorem test_decode_addIVx : decode 0xFF1E = .instr (.addIVx 15) := by decide

theorem test_decode_ldFVx : decode 0xF329 = .instr (.ldFVx 3) := by decide

theorem test_decode_ldBVx : decode 0xF333 = .instr (.ldBVx 3) := by decide

theorem test_decode_ldMiVx : decode 0xF255 = .instr (.ldMiVx 2) := by decide

theorem test_decode_ldVxMi : decode 0xF165 = .instr (.ldVxMi 1) := by decide

/-- G1, G4, G7, G9, G12, G14, G17, G22: words of every family with a second level that are no instruction. -/
theorem test_decode_unknown :
    [0x0000, 0x00FE, 0x01E0, 0x5121, 0x812D, 0x9341, 0xE1A0, 0xF075].all
      (fun w => decide (decode (BitVec.ofNat 16 w) = .unknown (BitVec.ofNat 16 w))) = true := by decide

/-- Two bytes, the high one first (R90); one byte is no word. -/
theorem test_decodeBytes :
    decodeBytes [0xD1, 0x2F, 0x99] = .instr (.drw 1 2 15) [0x99] ∧ decodeBytes [0xD1] = .truncated ∧
      decodeBytes [] = .truncated := by decide

theorem test_decodeTableWord :
    decodeTableWord 16 0xE39E = some (.skp 3) ∧ decodeTableWord 16 0x512F = none ∧
      decodeTableWord 16 0x10000 = none := by decide

/-! ## Ill-formed terms are refused, one for each check -/

theorem test_illFormed_jp : (Instr.jp 0x1000).wellFormed = false := by decide

theorem test_illFormed_call : (Instr.call 0xFFFF).wellFormed = false := by decide

theorem test_illFormed_ldINnn : (Instr.ldINnn 0x1000).wellFormed = false := by decide

theorem test_illFormed_jpV0 : (Instr.jpV0 0x8000).wellFormed = false := by decide

theorem test_illFormed_drw : (Instr.drw 0 0 16).wellFormed = false := by decide

theorem test_wellFormed_atTheEdge :
    (Instr.jp 0xFFF).wellFormed = true ∧ (Instr.drw 15 15 15).wellFormed = true := by decide

/-! ## Single steps: arithmetic and logic -/

/-- A2. -/
theorem test_ldVxKk :
    ok 0x6F07 start
      (fun t => regs t [(15, 7)] && t.pc == 0x202) = true := by decide

/-- A3. -/
theorem test_addVxKk_noFlag :
    ok 0x7310 (withRegs start [(3, 0xF8), (15, 0x55)])
      (fun t => regs t [(3, 8), (15, 0x55)] && t.pc == 0x202) = true := by decide

/-- A6. -/
theorem test_ldVxVy :
    ok 0x8120 (withRegs start [(1, 1), (2, 0x9C)])
      (fun t => regs t [(1, 0x9C), (2, 0x9C)] && t.pc == 0x202) = true := by decide

/-- A8. -/
theorem test_orVxVy :
    ok 0x8121 (withRegs start [(1, 0xF0), (2, 0x3C), (15, 0x55)])
      (fun t => regs t [(1, 0xFC), (2, 0x3C), (15, 0x55)] && t.pc == 0x202) = true := by decide

/-- A9. -/
theorem test_andVxVy :
    ok 0x8122 (withRegs start [(1, 0xF0), (2, 0x3C), (15, 0x55)])
      (fun t => regs t [(1, 0x30), (2, 0x3C), (15, 0x55)] && t.pc == 0x202) = true := by decide

/-- A10. -/
theorem test_xorVxVy :
    ok 0x8123 (withRegs start [(1, 0xF0), (2, 0x3C), (15, 0x55)])
      (fun t => regs t [(1, 0xCC), (2, 0x3C), (15, 0x55)] && t.pc == 0x202) = true := by decide

/-- A18. -/
theorem test_addVxVy_flagReadFirst :
    ok 0x81F4 (withRegs start [(1, 0xFF), (15, 2)])
      (fun t => regs t [(1, 1), (15, 1)] && t.pc == 0x202) = true := by decide

/-- A17. -/
theorem test_addVxVy_resultWins :
    ok 0x8F24 (withRegs start [(15, 0xF0), (2, 0x20)])
      (fun t => regs t [(15, 0x10), (2, 0x20)] && t.pc == 0x202) = true := by decide

/-- A20. -/
theorem test_subVxVy_borrow :
    ok 0x8125 (withRegs start [(1, 5), (2, 10), (15, 1)])
      (fun t => regs t [(1, 0xFB), (15, 0)] && t.pc == 0x202) = true := by decide

/-- A21. -/
theorem test_subVxVy_equal :
    ok 0x8125 (withRegs start [(1, 7), (2, 7), (15, 1)])
      (fun t => regs t [(1, 0), (15, 0)] && t.pc == 0x202) = true := by decide

/-- A24. -/
theorem test_shrVx_ignoresY :
    ok 0x8126 (withRegs start [(1, 5), (2, 0xFF)])
      (fun t => regs t [(1, 2), (2, 0xFF), (15, 1)] && t.pc == 0x202) = true := by decide

/-- A28. -/
theorem test_subnVxVy :
    ok 0x8127 (withRegs start [(1, 5), (2, 10)])
      (fun t => regs t [(1, 5), (2, 10), (15, 1)] && t.pc == 0x202) = true := by decide

/-- A32. -/
theorem test_shlVx :
    ok 0x812E (withRegs start [(1, 0x81), (2, 0xFF)])
      (fun t => regs t [(1, 2), (2, 0xFF), (15, 1)] && t.pc == 0x202) = true := by decide

/-- A34. -/
theorem test_shlVx_resultWins :
    ok 0x8F0E (withRegs start [(15, 0xC0)])
      (fun t => regs t [(15, 0x80)] && t.pc == 0x202) = true := by decide

/-- A35. -/
theorem test_rnd :
    ok 0xC30F ((withRegs start [(3, 0xEE)]).present 0xB7)
      (fun t => regs t [(3, 7)] && t.pc == 0x202) = true := by decide

/-! ## Single steps: control flow -/

/-- B2. -/
theorem test_ret :
    ok 0x00EE { start with sp := 16, stack := start.stack.set 15 0x345 }
      (fun t => t.pc == 0x345 && t.sp == 15 && t.stack.get 15 == 0x345) = true := by decide

/-- B3. -/
theorem test_ret_empty :
    stepFaults (start.withFetchWord 16 0x00EE) (.stackUnderflow 0x200 0x00EE) = true := by decide

/-- B4. -/
theorem test_jp :
    ok 0x1ABC start
      (fun t => t.pc == 0xABC) = true := by decide

/-- B10. -/
theorem test_call :
    ok 0x2F00 { start with pc := 0xFFE }
      (fun t => t.pc == 0xF00 && t.sp == 1 && t.stack.get 0 == 0x1000) = true := by decide

/-- B9. -/
theorem test_call_full :
    stepFaults (({ start with sp := 16 } : State).withFetchWord 16 0x2ABC) (.stackOverflow 0x200 0x2ABC) = true := by decide

/-- B11. -/
theorem test_seVxKk :
    ok 0x3344 (withRegs start [(3, 0x44)])
      (fun t => t.pc == 0x204) = true := by decide

/-- B13. -/
theorem test_sneVxKk :
    ok 0x4344 (withRegs start [(3, 0x44)])
      (fun t => t.pc == 0x202) = true := by decide

/-- B15. -/
theorem test_seVxVy :
    ok 0x5340 (withRegs start [(3, 7), (4, 7)])
      (fun t => t.pc == 0x204) = true := by decide

/-- B18. -/
theorem test_sneVxVy :
    ok 0x9340 (withRegs start [(3, 7), (4, 8)])
      (fun t => t.pc == 0x204) = true := by decide

/-- B24. -/
theorem test_skip_atTheTop :
    ok 0x3000 { start with pc := 0xFFE }
      (fun t => t.pc == 0x1002) = true := by decide

/-- B22. -/
theorem test_jpV0 :
    ok 0xBFFF (withRegs start [(0, 0xFF)])
      (fun t => t.pc == 0x10FE) = true := by decide

/-! ## Single steps: the index register and memory -/

/-- C2. -/
theorem test_ldINnn :
    ok 0xAFFF start
      (fun t => t.I == 0xFFF && t.pc == 0x202) = true := by decide

/-- C5. -/
theorem test_addIVx_edge :
    ok 0xF31E { withRegs start [(3, 0xFE), (15, 1)] with I := 0xF01 }
      (fun t => t.I == 0xFFF && regs t [(15, 0)] && t.pc == 0x202) = true := by decide

/-- C6. -/
theorem test_addIVx_wraps :
    ok 0xF31E { withRegs start [(3, 2)] with I := 0xFFFF }
      (fun t => t.I == 1 && regs t [(15, 1)] && t.pc == 0x202) = true := by decide

/-- C11. -/
theorem test_ldFVx_unmasked :
    ok 0xF329 (withRegs start [(3, 0xFF)])
      (fun t => t.I == 0x4FB && t.pc == 0x202) = true := by decide

/-- C13. -/
theorem test_ldBVx :
    ok 0xF333 { withRegs start [(3, 254)] with I := 0x300 }
      (fun t => bytesAt t 0x300 4 == [2, 5, 4, 0] && t.I == 0x300 && t.pc == 0x202) = true := by decide

/-- C16. -/
theorem test_ldBVx_outOfRange :
    stepFaults (({ withRegs start [(3, 0x64)] with I := 0xFFE } : State).withFetchWord 16 0xF333) (.memOutOfRange 0x200 0xF333 0x1000) = true := by decide

/-- C18. -/
theorem test_ldMiVx :
    ok 0xF255 { withRegs start [(0, 0x11), (1, 0x22), (2, 0x33), (3, 0x44)] with I := 0x400 }
      (fun t => bytesAt t 0x400 4 == [0x11, 0x22, 0x33, 0] && t.I == 0x403 && t.pc == 0x202) = true := by decide

/-- C20. -/
theorem test_ldMiVx_outOfRange :
    stepFaults (({ withRegs start [(0, 0x5A), (1, 0x5B)] with I := 0xFFF } : State).withFetchWord 16 0xF155) (.memOutOfRange 0x200 0xF155 0x1000) = true := by decide

/-- C23. -/
theorem test_ldVxMi :
    ok 0xF265 { withBytes (withRegs start [(3, 0x99)]) 0x400 [0xDE, 0xAD, 0xBE, 0xEF] with I := 0x400 }
      (fun t => regs t [(0, 0xDE), (1, 0xAD), (2, 0xBE), (3, 0x99)] && t.I == 0x403 && t.pc == 0x202) = true := by decide

/-- C24. -/
theorem test_ldVxMi_top :
    ok 0xF065 { withBytes start 0xFFF [0x77] with I := 0xFFF }
      (fun t => regs t [(0, 0x77)] && t.I == 0x1000 && t.pc == 0x202) = true := by decide

/-! ## Single steps: graphics -/

/-- D1. -/
theorem test_cls :
    ok 0x00E0 (withCells (withRegs start [(15, 1)]) [(0, 0), (31, 63), (10, 20)])
      (fun t => lit t [] && regs t [(15, 1)] && t.pc == 0x202) = true := by decide

/-- the wrap example of R211: V0 = 62, V1 = 30, I = 0, glyph 0. -/
theorem test_drw_wraps :
    ok 0xD015 (withRegs start [(0, 62), (1, 30)])
      (fun t => lit t [(30, 62), (30, 63), (30, 0), (30, 1), (31, 62), (31, 1), (0, 62), (0, 1), (1, 62), (1, 1), (2, 62), (2, 63),
        (2, 0), (2, 1)] && regs t [(15, 0)] && t.pc == 0x202) = true := by decide +kernel

/-- D4. -/
theorem test_drw_collides :
    ok 0xD122 (withCells { withBytes (withRegs start [(1, 4), (2, 2)]) 0x300 [0xC0, 0x81] with I := 0x300 } [(2, 4), (3, 5)])
      (fun t => lit t [(2, 5), (3, 4), (3, 5), (3, 11)] && regs t [(15, 1)] && t.pc == 0x202) = true := by decide +kernel

/-! ## Single steps: keys and timers -/

/-- E2. -/
theorem test_skp :
    ok 0xE39E { withRegs start [(3, 7)] with key := 0x0140 }
      (fun t => t.pc == 0x202) = true := by decide

/-- E6. -/
theorem test_skp_notAKey :
    stepFaults (({ withRegs start [(3, 0x10)] with key := 1 } : State).withFetchWord 16 0xE39E) (.keyIndexOutOfRange 0x200 0xE39E 0x10) = true := by decide

/-- E4. -/
theorem test_sknp :
    ok 0xE3A1 { withRegs start [(3, 7)] with key := 0x0080 }
      (fun t => t.pc == 0x202) = true := by decide

/-- E7. -/
theorem test_sknp_notAKey :
    stepFaults ((withRegs start [(3, 0xFF)]).withFetchWord 16 0xE3A1) (.keyIndexOutOfRange 0x200 0xE3A1 0xFF) = true := by decide

/-- E8. -/
theorem test_ldVxK_waits :
    ok 0xF50A { withRegs start [(5, 0xEE)] with delayTimer := 5, soundTimer := 1 }
      (fun t => regs t [(5, 0xEE)] && t.pc == 0x200 && t.delayTimer == 4 && t.soundTimer == 0) = true := by decide

/-- E10. -/
theorem test_ldVxK_least :
    ok 0xF50A { withRegs start [(5, 0xEE)] with key := 0x1208 }
      (fun t => regs t [(5, 3)] && t.pc == 0x202) = true := by decide

/-- F1. -/
theorem test_ldVxDt :
    ok 0xF307 { start with delayTimer := 9 }
      (fun t => regs t [(3, 9)] && t.delayTimer == 8 && t.pc == 0x202) = true := by decide

/-- F10. -/
theorem test_ldDtVx :
    ok 0xF315 { withRegs start [(3, 0xFF)] with soundTimer := 2 }
      (fun t => t.delayTimer == 254 && t.soundTimer == 1 && t.pc == 0x202) = true := by decide

/-- F7. -/
theorem test_ldStVx :
    ok 0xF318 (withRegs start [(3, 5)])
      (fun t => t.soundTimer == 4 && t.pc == 0x202) = true := by decide

/-- F12. -/
theorem test_tick_atZero :
    ok 0x6000 start
      (fun t => t.delayTimer == 0 && t.soundTimer == 0 && t.pc == 0x202) = true := by decide

/-- F8: both sound edges hold of one step. -/
theorem test_soundEdges :
    ((withRegs start [(3, 1)]).withFetchWord 16 0xF318).beepStart = true ∧
      ((withRegs start [(3, 1)]).withFetchWord 16 0xF318).beepStop = true := by decide

/-! ## Faults and the host -/

/-- X3: at pc 0xFFF the fault is PcOutOfRange, with the old latch (X2). -/
theorem test_pcOutOfRange :
    stepFaults { start with pc := 0xFFF, opcode := 0x1234 } (.pcOutOfRange 0xFFF 0x1234) = true := by decide

/-- F14: an unknown word faults and nothing ticks. -/
theorem test_unknownOpcode :
    stepFaults (State.withFetchWord { start with delayTimer := 5 } 16 0x0000) (.unknownOpcode 0x200 0x0000) = true ∧
      (State.afterFault { start with delayTimer := 5 } (.unknownOpcode 0x200 0x0000)).delayTimer = 5 := by decide

/-- H2: the image of P1. -/
theorem test_loadProgram :
    bytesAt (hostOp (.loadProgram "p1" [0x60, 0x0A, 0x61, 0x05, 0x80, 0x14]) start).2 0x1FF 8 =
      [0, 0x60, 0x0A, 0x61, 0x05, 0x80, 0x14, 0] := by decide

/-- H6 and H7. -/
theorem test_setKey :
    (hostOp (.setKey 7 true) start).2.key = 0x0080 ∧
      (hostOp (.setKey 7 false) { start with key := 0x0180 }).2.key = 0x0100 := by decide

/-- H8 and H9. -/
theorem test_drawFlag :
    (hostOp .drawPending State.reset).1 = .flag true ∧
      (hostOp .drawPending (hostOp .clearDrawFlag State.reset).2).1 = .flag false := by decide
/-! ## Witnesses: for each statement with hypotheses, states and operands that meet them, at the edges of their ranges -/

/-- The state of a next outcome, else `s`. -/
def stateOf (s : State) : Result → State
  | .next t => t
  | .fault _ => s
  | .refused _ => s

def isNext : Result → Bool
  | .next _ => true
  | .fault _ => false
  | .refused _ => false

theorem eq_next_of_isNext (s : State) {r : Result} (h : isNext r = true) : r = .next (stateOf s r) := by
  cases r <;> simp_all [isNext, stateOf]

theorem eq_fault_of_stepFaults {s : State} {f : Fault} (h : stepFaults s f = true) : step s = .fault f := by
  unfold stepFaults at h
  split at h <;> simp_all

/-- `start` with the word 00E0 at pc. -/
def onCls : State := start.withFetchWord 16 0x00E0

/-- `start` with the word F318 at pc and V3 = 5. -/
def onLdSt : State := (withRegs start [(3, 5)]).withFetchWord 16 0xF318

/-- `start` with the word F315 at pc and V3 = 5. -/
def onLdDt : State := (withRegs start [(3, 5)]).withFetchWord 16 0xF315

/-- pc at the last address a fetch may start from, where the empty memory holds the word 0x0000. -/
def atTop : State := { start with pc := 0xFFE }

/-- pc at the first address a fetch may not start from. -/
def aboveTop : State := { start with pc := 0xFFF, opcode := 0x1234 }

theorem onCls_fetches (i : Instr) (h : fetches onCls i) : i = .cls := by
  have e : decode onCls.fetchWord = .instr .cls := by decide
  unfold fetches at h
  rw [e] at h
  exact (Decoded.instr.inj h).symm

theorem witness_DecodeOfEncodeIsTheInstruction :
    (Instr.drw 15 15 15).wellFormed = true ∧ (Instr.call 0xFFF).wellFormed = true ∧
      (Instr.ldVxKk 15 0xFF).wellFormed = true := by decide

theorem witness_EncodeOfDecodeIsTheWord : decode 0xDFFF = .instr (.drw 15 15 15) := by decide

theorem witness_DecoderIsTheOpcodeMap :
    decode 0xFF65 = .instr (.ldVxMi 15) ∧ (⟨0xF065, 0xF0FF⟩ : OpcodeRow) ∈ opcodeMap ∧
      OpcodeRow.matchesWord ⟨0xF065, 0xF0FF⟩ 0xFF65 = true := by decide

theorem witness_UnknownWordsFaultByFamily :
    (atTop.pc.toNat ≤ 0xFFE ∧ UnknownByFamily (wordAtPc atTop)) ∧
      (onCls.pc.toNat ≤ 0xFFE ∧ decode (wordAtPc onCls) = .instr .cls) :=
  ⟨⟨by decide, .inl (by decide)⟩, by decide, by decide⟩

theorem witness_StepIsFetchDecodeExecuteTick :
    aboveTop.pc.toNat > 0xFFE ∧
    (atTop.pc.toNat ≤ 0xFFE ∧ decode (wordAtPc atTop) = .unknown 0x0000) ∧
    (onCls.pc.toNat ≤ 0xFFE ∧ decode (wordAtPc onCls) = .instr .cls ∧
      ∃ t, exec .cls { onCls with opcode := wordAtPc onCls } = .next t) ∧
    (decode (wordAtPc (start.withFetchWord 16 0x00EE)) = .instr .ret ∧
      exec .ret start = .fault (.stackUnderflow 0x200 0)) :=
  ⟨by decide, by decide, ⟨by decide, by decide, _, rfl⟩, by decide, rfl⟩

theorem witness_StepFaultIsTheFirstInPhaseOrder :
    stepFault aboveTop = some (.pcOutOfRange 0xFFF 0x1234) ∧ stepFault atTop = some (.unknownOpcode 0xFFE 0x0000) ∧
      stepFault (start.withFetchWord 16 0x00EE) = some (.stackUnderflow 0x200 0x00EE) ∧ stepFault onCls = none := by
  decide

theorem witness_FaultLeavesTheMachineAndRecurs :
    step aboveTop = .fault (.pcOutOfRange 0xFFF 0x1234) ∧ step atTop = .fault (.unknownOpcode 0xFFE 0x0000) :=
  ⟨eq_fault_of_stepFaults (by decide), eq_fault_of_stepFaults (by decide)⟩

/-- D16, D17, C15, C16, C21, C22: the last access inside and the first outside. -/
theorem witness_MemoryAccessFaultsOutOfRange :
    isNext (exec (.drw 1 2 15) { start with I := 0xFF1 }) = true ∧
    exec (.drw 1 2 15) { start with I := 0xFF2 } = .fault (.memOutOfRange 0x200 0 0x1000) ∧
    isNext (exec (.ldBVx 3) { start with I := 0xFFD }) = true ∧
    exec (.ldBVx 3) { start with I := 0x2000 } = .fault (.memOutOfRange 0x200 0 0x2000) ∧
    exec (.ldMiVx 15) { start with I := 0xFF1 } = .fault (.memOutOfRange 0x200 0 0x1000) ∧
    exec (.ldVxMi 15) { start with I := 0xFF1 } = .fault (.memOutOfRange 0x200 0 0x1000) :=
  ⟨by decide +kernel, rfl, by decide, rfl, rfl, rfl⟩

/-- Every clause has an instruction that changes its element. -/
theorem witness_InstructionsWriteOnlyWhatTheMatrixAllows :
    (∃ t, exec (.ldMiVx 0) { start with I := 0xFFF, V := start.V.set 0 7 } = .next t ∧ t.mem ≠ start.mem) ∧
    (∃ t, exec (.ldINnn 0x123) start = .next t ∧ t.I ≠ start.I) ∧
    (∃ t, exec (.call 0x300) start = .next t ∧ t.stack ≠ start.stack ∧ t.sp ≠ start.sp) ∧
    (∃ t, exec (.drw 0 0 1) start = .next t ∧ t.gfx ≠ start.gfx ∧ t.drawFlag ≠ start.drawFlag) ∧
    (∃ t, exec (.ldDtVx 3) (withRegs start [(3, 5)]) = .next t ∧ t.delayTimer ≠ start.delayTimer) ∧
    (∃ t, exec (.ldStVx 3) (withRegs start [(3, 5)]) = .next t ∧ t.soundTimer ≠ start.soundTimer) :=
  ⟨⟨_, eq_next_of_isNext start (by decide), by decide⟩, ⟨_, eq_next_of_isNext start (by decide), by decide⟩,
    ⟨_, eq_next_of_isNext start (by decide), by decide⟩,
    ⟨_, eq_next_of_isNext start (by decide +kernel), by decide +kernel⟩,
    ⟨_, eq_next_of_isNext start (by decide), by decide⟩, ⟨_, eq_next_of_isNext start (by decide), by decide⟩⟩

/-- A destination, a flag that is no destination, and VF as the last register of a loaded block. -/
theorem witness_RegistersChangeOnlyAsNamed :
    (∃ t, exec (.ldVxKk 3 7) start = .next t ∧ t.readV 3 ≠ start.readV 3) ∧
    (∃ t, exec (.addVxVy 1 1) (withRegs start [(1, 0x90)]) = .next t ∧ t.readV VF ≠ start.readV VF) ∧
    (∃ t, exec (.ldVxMi 15) start = .next t ∧ t.readV VF ≠ start.readV VF) :=
  ⟨⟨_, eq_next_of_isNext start (by decide), by decide⟩, ⟨_, eq_next_of_isNext start (by decide), by decide⟩,
    ⟨_, eq_next_of_isNext start (by decide), by decide⟩⟩

theorem witness_PcAdvancesByTwoAndSkipsByFour :
    (isNext (exec .cls start) = true ∧ ¬ ControlsPc .cls) ∧
      (isNext (exec (.skp 0) start) = true ∧ IsSkip (.skp 0)) :=
  ⟨⟨by decide, id⟩, by decide, trivial⟩

theorem witness_StepReadsItsInputsOnlyWhereStated :
    (∀ x kk, ¬ fetches onCls (.rnd x kk)) ∧
      ∀ x, ¬ fetches onCls (.skp x) ∧ ¬ fetches onCls (.sknp x) ∧ ¬ fetches onCls (.ldVxK x) := by
  refine ⟨fun x kk h => ?_, fun x => ⟨fun h => ?_, fun h => ?_, fun h => ?_⟩⟩ <;>
    exact absurd (onCls_fetches _ h) (by simp)

theorem witness_OnlyThreeInstructionsTouchATimer :
    (∀ x, Instr.cls ≠ .ldVxDt x ∧ Instr.cls ≠ .ldDtVx x ∧ Instr.cls ≠ .ldStVx x) ∧
      isNext (exec (.ldStVx 3) start) = true := ⟨fun _ => by simp, by decide⟩

theorem witness_TimersTickOncePerSuccessfulStep :
    (step onLdDt = .next (stateOf onLdDt (step onLdDt)) ∧ fetches onLdDt (.ldDtVx 3)) ∧
    (step onLdSt = .next (stateOf onLdSt (step onLdSt)) ∧ fetches onLdSt (.ldStVx 3)) ∧
    (step onCls = .next (stateOf onCls (step onCls)) ∧
      ∀ x, ¬ fetches onCls (.ldDtVx x) ∧ ¬ fetches onCls (.ldStVx x)) ∧
    step atTop = .fault (.unknownOpcode 0xFFE 0x0000) ∧
    (HostOp.clearDrawFlag ≠ .initializeMachine ∧ ∀ r, HostOp.clearDrawFlag ≠ .stepWith r) :=
  ⟨⟨eq_next_of_isNext _ (by decide), by unfold fetches; decide⟩,
    ⟨eq_next_of_isNext _ (by decide), by unfold fetches; decide⟩,
    ⟨eq_next_of_isNext _ (by decide), fun x =>
      ⟨fun h => absurd (onCls_fetches _ h) (by simp), fun h => absurd (onCls_fetches _ h) (by simp)⟩⟩,
    eq_fault_of_stepFaults (by decide), by simp⟩

theorem witness_DelayTimerRunsDown : QuietSteps 1 onCls (stateOf onCls (step onCls)) :=
  .cons 0 onCls _ _ (fun _ h => absurd (onCls_fetches _ h) (by simp)) (eq_next_of_isNext _ (by decide)) (.refl _)

/-- Parked at 0x200 and at the last address a fetch may start from. -/
theorem witness_ParkedProgramStaysParked :
    (start.withFetchWord 16 0x1200).parkedAt 0x200 ∧ (atTop.withFetchWord 16 0x1FFE).parkedAt 0xFFE :=
  ⟨⟨by decide, by decide, by decide⟩, by decide, by decide, by decide⟩

/-- F7: `beep_start` holds; F11: `beep_stop` holds at the tick; F9: at the write; F12: neither holds. -/
theorem witness_SoundEdgesOfAStep :
    onLdSt.beepStart = true ∧ (State.withFetchWord { start with soundTimer := 1 } 16 0x6000).beepStop = true ∧
      (State.withFetchWord { start with soundTimer := 7 } 16 0xF318).beepStop = true ∧
      onCls.beepStart = false ∧ onCls.beepStop = false := by decide

theorem witness_StepKeepsTheBounds : onCls.Inv ∧ step onCls = .next (stateOf onCls (step onCls)) :=
  ⟨⟨by decide, by decide, by decide⟩, eq_next_of_isNext _ (by decide)⟩

theorem witness_ReachableMachinesSatisfyTheBounds :
    Reachable (hostOp (.stepWith 0) (hostOp (.loadProgram "p5" [0x22, 0x00]) State.reset).2).2 :=
  .host _ _ (.host _ _ .boot)

theorem witness_EqualReadsMeanEqualMemories :
    Memory.wf (Memory.write (Memory.write [] 0xFFF 1) 0x000 2) = true ∧
      Memory.wf (Memory.write (Memory.write (Memory.write [] 0x300 9) 0x300 0) 0xFFF 1) = true ∧
      ∀ a < 0x1000, Memory.read (Memory.write [] 0x300 0) a = Memory.read [] a :=
  ⟨by decide, by decide, fun _ _ => rfl⟩

/-- C28: the block stored over the next instruction. -/
def storesAhead : State := State.withFetchWord { withRegs start [(0, 0x6A), (1, 0x42)] with I := 0x202 } 16 0xF155

theorem witness_StoreIsSeenByTheNextFetch :
    storesAhead.mem.wf = true ∧ fetches storesAhead (.ldMiVx 1) ∧
      step storesAhead = .next (stateOf start (step storesAhead)) ∧ (1 : Reg).val = (0 : Reg).val + 1 ∧
      (1 : Reg) ≤ 1 ∧ (stateOf start (step storesAhead)).pc.toNat = storesAhead.dataAddr 0 ∧
      (stateOf start (step storesAhead)).fetchWord = 0x6A42 :=
  ⟨by decide, by unfold fetches; decide, eq_next_of_isNext _ (by decide), by decide⟩

theorem witness_ComputedJumpAddsV0 : fitsNnn 0xFFF = true ∧ fitsNnn 0x000 = true := by decide

theorem witness_CallPushesTheReturnAddress :
    (State.sp { start with sp := 15 }).val < 16 ∧ (State.sp { start with sp := 16 }).val = 16 := by decide

theorem witness_ReturnPopsThePushedAddress :
    (State.sp { start with sp := 16 }).val = (15 : Fin 16).val + 1 ∧ start.sp.val = 0 := by decide

theorem witness_CallThenReturnComesBack :
    (State.sp { start with sp := 15 }).val < 16 ∧
      ∃ t q : State, exec (.call 0x300) { start with sp := 15 } = .next t ∧ q.stack = t.stack ∧ q.sp = t.sp ∧ q.I ≠ t.I :=
  ⟨by decide, _, { stateOf start (exec (.call 0x300) { start with sp := 15 }) with I := 5 },
    eq_next_of_isNext start (by decide), rfl, rfl, by decide⟩

theorem witness_DecimalDigitsAreStored :
    (State.dataAddr { start with I := 0xFFD } 2 ≤ 0xFFF ∧ start.mem.wf = true) ∧
      State.dataAddr { start with I := 0xFFE } 2 > 0xFFF := by decide

theorem witness_RegisterBlockIsStored :
    (State.dataAddr { start with I := 0xFF0 } (15 : Reg).val ≤ 0xFFF ∧ start.mem.wf = true) ∧
      State.dataAddr { start with I := 0xFF1 } (15 : Reg).val > 0xFFF := by decide

theorem witness_RegisterBlockIsLoaded :
    State.dataAddr { start with I := 0xFFF } (0 : Reg).val ≤ 0xFFF ∧
      State.dataAddr { start with I := 0xFFF } (1 : Reg).val > 0xFFF := by decide

/-- S3's instance: the block at 0x400, the registers cleared in between. -/
theorem witness_StoreThenLoadRestoresTheBlock :
    ∃ s t q : State, s.mem.wf = true ∧ exec (.ldMiVx 2) s = .next t ∧ q.mem = t.mem ∧ q.I = s.I ∧
      q.readV 0 ≠ s.readV 0 :=
  ⟨{ withRegs start [(0, 0x11), (1, 0x22), (2, 0x33)] with I := 0x400 }, _,
    { start with
      mem := (stateOf start (exec (.ldMiVx 2)
        { withRegs start [(0, 0x11), (1, 0x22), (2, 0x33)] with I := 0x400 })).mem
      I := 0x400 },
    by decide, eq_next_of_isNext start (by decide), rfl, rfl, by decide⟩

/-- D4's start: the sprite's first pixel lies over the lit cell (2, 4). -/
def overALitCell : State :=
  withCells { withBytes (withRegs start [(1, 4), (2, 2)]) 0x300 [0xC0, 0x81] with I := 0x300 } [(2, 4), (3, 5)]

/-- A sprite over a lit cell; the longest sprite at the top of memory; no row at all, with I outside memory. -/
theorem witness_DrawInvertsTheCellsUnderTheSprite :
    (∃ j < 2048, UnderSprite overALitCell 1 2 2 j ∧ cellAt overALitCell.gfx j = true) ∧
    ((15 < 16) ∧ State.dataAddr { start with I := 0xFF1 } (15 - 1) ≤ 0xFFF) ∧
    ((0 < 16) ∧ ¬ ∃ j < 2048, UnderSprite { start with I := 0xFFFF } 1 2 0 j ∧ cellAt start.gfx j = true) :=
  ⟨⟨64 * 2 + 4, by decide, ⟨0, 0, ⟨by decide, by decide, by decide⟩, by decide⟩, by decide⟩, by decide, by decide,
    fun ⟨_, _, ⟨_, _, ⟨h, _⟩, _⟩, _⟩ => absurd h (Nat.not_lt_zero _)⟩

/-- The first glyph on the clear screen: no collision, and a set pixel. -/
theorem witness_DrawingTwiceRestoresTheScreen :
    (5 < 16) ∧ exec (.drw 0 0 5) start = .next (stateOf start (exec (.drw 0 0 5) start)) ∧
      (∃ r c, SpritePixel start 5 r c) ∧ val (stateOf start (exec (.drw 0 0 5) start)) VF = 0 :=
  ⟨by decide, eq_next_of_isNext _ (by decide +kernel), ⟨4, 3, by decide, by decide, by decide⟩, by decide +kernel⟩

theorem witness_KeySkips :
    val (withRegs start [(3, 15)]) 3 ≤ 15 ∧ val (withRegs start [(3, 16)]) 3 > 15 := by decide

/-- `start` with the word F50A at pc. -/
def onWait : State := start.withFetchWord 16 0xF50A

/-- No key down at a waiting instruction; only key 15 down; keys 3, 9 and C down. -/
theorem witness_WaitForKeyTakesTheLeast :
    ((∀ i < 16, onWait.key.getLsbD i = false) ∧ onWait.pc.toNat ≤ 0xFFE ∧ fetches onWait (.ldVxK 5)) ∧
    ((0x8000 : BitVec 16).getLsbD 15 = true ∧ ∀ i < 15, (0x8000 : BitVec 16).getLsbD i = false) ∧
    ((0x1208 : BitVec 16).getLsbD 3 = true ∧ ∀ i < 3, (0x1208 : BitVec 16).getLsbD i = false) :=
  ⟨⟨by decide, by decide, by unfold fetches; decide⟩, by decide, by decide⟩

/-- `start` with the word F307 at pc and the delay timer at 9 (F1). -/
def onReadDt : State := State.withFetchWord { start with delayTimer := 9 } 16 0xF307

theorem witness_TimerReadAndWrites :
    (isNext (step onReadDt) = true ∧ fetches onReadDt (.ldVxDt 3)) ∧
      (isNext (step onLdDt) = true ∧ fetches onLdDt (.ldDtVx 3)) ∧
      (isNext (step onLdSt) = true ∧ fetches onLdSt (.ldStVx 3)) :=
  ⟨⟨by decide, by unfold fetches; decide⟩, ⟨by decide, by unfold fetches; decide⟩, by decide, by unfold fetches; decide⟩

/-- H1 from a machine that is not the reset one, at the last font byte, the first byte after it and the last of memory. -/
theorem witness_InitializeResetsEverything :
    (hostOp .initializeMachine (withBytes onLdSt 79 [1, 2])).2 = State.reset ∧
      bytesAt (hostOp .initializeMachine (withBytes onLdSt 79 [1, 2])).2 79 2 = [0x80, 0] ∧
      State.reset.mem.read 0xFFF = 0 := by decide

theorem witness_LoadProgramCopiesTheImage :
    ((List.replicate 3584 (0xAB : Byte)).length ≤ 3584 ∧ start.mem.wf = true) ∧
      (List.replicate 3585 (0xAB : Byte)).length > 3584 := by
  simp only [List.length_replicate]
  decide

theorem witness_NoWordMatchesTwoRows :
    (⟨0x8006, 0xF00F⟩ : OpcodeRow) ∈ opcodeMap ∧ OpcodeRow.matchesWord ⟨0x8006, 0xF00F⟩ 0x8FF6 = true := by decide

theorem witness_PortsReadAndChangeNothing :
    HostOp.loadProgram "" [0xFF] ≠ .initializeMachine ∧ ∀ r, HostOp.loadProgram "" [0xFF] ≠ .stepWith r := by simp

theorem witness_SetKeySetsOneKey :
    isNext (start.setKey 15 true) = true ∧ start.setKey 16 true = .refused (.notAKey 16) := ⟨by decide, rfl⟩

/-- Both replies of the host's step occur. -/
theorem witness_HostStepReturnsOkOrFault :
    (hostOp (.stepWith 7) onCls).1 = .done ∧
      (hostOp (.stepWith 7) atTop).1 = .fault (.unknownOpcode 0xFFE 0x0000) := by decide

theorem witness_NothingBeforeInitialize :
    HostOp.readOpcode ≠ .initializeMachine ∧ HostOp.stepWith 0 ≠ .initializeMachine := by decide

end Sys2Proof.Tests
end

section
/-! PROOFS. The arithmetic and logic instructions (spec R140 to R152) that write one register and move on to the next
instruction. -/

namespace Sys2Proof.Claims

open Sys2Proof Sys2Proof.Machine

@[simp] theorem val_advance (s : State) (j : Reg) : val s.advance j = val s j := rfl

theorem val_writeV (s : State) (x j : Reg) (b : Byte) :
    val (s.writeV x b) j = if j = x then b.toNat else val s j := by
  simp only [val, State.readV_writeV, apply_ite BitVec.toNat]

/-- An instruction whose whole meaning is one register write and the move to the next instruction. -/
theorem setsRegs_of_writeV_advance {i : Instr} {s : State} {x : Reg} {b : Byte} {n : Nat}
    (hexec : exec i s = .next (s.writeV x b).advance) (hb : b.toNat = n) :
    SetsRegs i s (fun j => if j = x then n else val s j) (s.pc + 2) := by
  refine ⟨(s.writeV x b).advance, hexec, fun j => ?_, rfl⟩
  rw [val_advance, val_writeV, hb]

/-- Settles O26: both instructions write only Vx, and the byte sum is the sum modulo 256. -/
theorem immediateLoadAndAdd : Obligations.ImmediateLoadAndAdd := by
  intro s x kk
  exact ⟨setsRegs_of_writeV_advance (b := kk) rfl rfl,
    setsRegs_of_writeV_advance (b := s.readV x + kk) rfl (BitVec.toNat_add _ _)⟩

/-- Settles O27: all four instructions write only Vx, and the operations on bytes are those on their values. -/
theorem copyAndBitwiseLogic : Obligations.CopyAndBitwiseLogic := by
  intro s x y
  exact ⟨setsRegs_of_writeV_advance (b := s.readV y) rfl rfl,
    setsRegs_of_writeV_advance (b := s.readV x ||| s.readV y) rfl (BitVec.toNat_or _ _),
    setsRegs_of_writeV_advance (b := s.readV x &&& s.readV y) rfl (BitVec.toNat_and _ _),
    setsRegs_of_writeV_advance (b := s.readV x ^^^ s.readV y) rfl (BitVec.toNat_xor _ _)⟩

end Sys2Proof.Claims
end

section
/-! PROOFS. The jump and the register skips (spec R171, R173 to R176). -/

namespace Sys2Proof.Claims

open Sys2Proof Sys2Proof.Machine

theorem val_eq_toNat_iff (s : State) (x : Reg) (b : Byte) : val s x = b.toNat ↔ s.readV x = b := BitVec.toNat_inj

/-- An instruction whose whole meaning is a skip: only pc moves, by the condition that the taken bit decides. -/
theorem exec_eq_of_skipIf {i : Instr} {s : State} {taken : Bool} {p : Prop} [Decidable p]
    (hexec : exec i s = .next (s.skipIf taken)) (htaken : taken = true ↔ p) :
    exec i s = .next { s with pc := if p then s.pc + 4 else s.pc + 2 } := by
  rw [hexec, State.skipIf, if_congr htaken rfl rfl]

/-- Settles O32: the execute phase of a jump is the write of pc alone. -/
theorem jumpSetsPc : Obligations.JumpSetsPc := by
  intro s nnn
  rfl

/-- Settles O37: each instruction is a skip, and bytes are equal exactly when their values are. -/
theorem registerSkips : Obligations.RegisterSkips := by
  intro s x y kk
  have hkk : s.readV x = kk ↔ val s x = kk.toNat := (val_eq_toNat_iff s x kk).symm
  have hxy : s.readV x = s.readV y ↔ val s x = val s y := (val_eq_toNat_iff s x (s.readV y)).symm
  exact ⟨exec_eq_of_skipIf rfl (beq_iff_eq.trans hkk),
    exec_eq_of_skipIf rfl (bne_iff_ne.trans (not_congr hkk)),
    exec_eq_of_skipIf rfl (beq_iff_eq.trans hxy),
    exec_eq_of_skipIf rfl (bne_iff_ne.trans (not_congr hxy))⟩

end Sys2Proof.Claims
end

section
/-! PROOFS. The load of the index register (spec R190). -/

namespace Sys2Proof.Claims

open Sys2Proof Sys2Proof.Machine

/-- Settles O38: the execute phase of Annn is the write of I and the move to the next instruction. -/
theorem indexIsLoaded : Obligations.IndexIsLoaded := by
  intro s nnn
  rfl

end Sys2Proof.Claims
end

section
/-! PROOFS. The clear of the framebuffer (spec R210). -/

namespace Sys2Proof.Claims

open Sys2Proof Sys2Proof.Machine

/-- The whole effect of 00E0 (R210). -/
theorem exec_cls (s : State) :
    exec .cls s = .next { s with gfx := clearGfx, drawFlag := true, pc := s.pc + 2 } := rfl

/-- Settles O45: the framebuffer of the next state is the clear one, whatever it was before. -/
theorem clearScreen : Obligations.ClearScreen := by
  intro s
  exact ⟨_, exec_cls s, fun j _ => cellAt_clearGfx j, rfl⟩

end Sys2Proof.Claims
end

section
/-! PROOFS. The ports of the host interface (spec R277 to R283, R296) and what the host writes between steps. -/

namespace Sys2Proof.Claims

open Sys2Proof Sys2Proof.Machine

/-- `t` is `s` but for memory, the keys and the draw flag, the elements the host writes between steps (R277, R279,
R296). -/
def HostFrame (s t : State) : Prop :=
  ∃ mem key drawFlag, t = { s with mem := mem, key := key, drawFlag := drawFlag }

theorem HostFrame.refl (s : State) : HostFrame s s := ⟨_, _, _, rfl⟩

theorem HostFrame.gfx_eq {s t : State} (h : HostFrame s t) : t.gfx = s.gfx := by
  obtain ⟨mem, key, drawFlag, rfl⟩ := h
  rfl

/-- An operation that fails changes nothing (R258), so its frame is that of its success. -/
theorem hostFrame_replyOf {s : State} {r : Result} (hnext : ∀ t, r = .next t → HostFrame s t) :
    HostFrame s (replyOf s r).2 := by
  cases r with
  | next t => exact hnext t rfl
  | fault f => exact .refl s
  | refused r => exact .refl s

/-- `load_program` writes memory alone (R296). -/
theorem loadProgram_frame {s t : State} {name : String} {bytes : List Byte}
    (h : s.loadProgram name bytes = .next t) : t = { s with mem := t.mem } := by
  unfold State.loadProgram at h
  split at h
  · cases h
  · cases h
    rfl

/-- `set_key` writes the keys alone (R277). -/
theorem setKey_frame {s t : State} {index : Nat} {pressed : Bool}
    (h : s.setKey index pressed = .next t) : t = { s with key := t.key } := by
  unfold State.setKey at h
  split at h
  · cases h
    rfl
  · cases h

/-- Every host operation but `initialize` and the step keeps to the frame. -/
theorem hostOp_frame {op : HostOp} (s : State) (hinit : op ≠ .initializeMachine) (hstep : ∀ r, op ≠ .stepWith r) :
    HostFrame s (hostOp op s).2 := by
  cases op with
  | initializeMachine => exact absurd rfl hinit
  | stepWith rnd => exact absurd rfl (hstep rnd)
  | loadProgram name bytes => exact hostFrame_replyOf fun t h => ⟨_, _, _, loadProgram_frame h⟩
  | setKey index pressed => exact hostFrame_replyOf fun t h => ⟨_, _, _, setKey_frame h⟩
  | clearDrawFlag => exact ⟨_, _, false, rfl⟩
  | drawPending | readFramebuffer | readSoundTimer | readOpcode => exact .refl s

/-- Settles O54: the four ports answer from the machine they leave as it was, and the framebuffer is none of the elements
that the other host operations write. -/
theorem portsReadAndChangeNothing : Obligations.PortsReadAndChangeNothing := by
  intro s
  exact ⟨rfl, rfl, rfl, rfl, fun op hinit hstep => (hostOp_frame s hinit hstep).gfx_eq⟩

end Sys2Proof.Claims
end

section
/-! PROOFS. The fields of a word (spec R91) and the operands placed by the encoder (R106): a word is the union of its fields,
so placing the fields that the decoder reads gives the word back, and reading the fields that the encoder places gives the
operands back. -/

namespace Sys2Proof

/-! ### The fields of a word, placed again -/

theorem shiftLeft_fieldTop (w : Word) : BitVec.ofNat 16 (fieldTop w) <<< 12 = w &&& 0xF000 := by
  rw [fieldTop, BitVec.ofNat_toNat]
  ext i hi
  interval_cases i <;> simp

theorem placeX_fieldX (w : Word) : placeX (fieldX w) = w &&& 0x0F00 := by
  change BitVec.ofNat 16 (w.extractLsb' 8 4).toNat <<< 8 = _
  rw [BitVec.ofNat_toNat]
  ext i hi
  interval_cases i <;> simp

theorem placeY_fieldY (w : Word) : placeY (fieldY w) = w &&& 0x00F0 := by
  change BitVec.ofNat 16 (w.extractLsb' 4 4).toNat <<< 4 = _
  rw [BitVec.ofNat_toNat]
  ext i hi
  interval_cases i <;> simp

theorem ofNat_fieldN (w : Word) : BitVec.ofNat 16 (fieldN w) = w &&& 0x000F := by
  rw [fieldN, BitVec.ofNat_toNat]
  ext i hi
  interval_cases i <;> simp

theorem placeKk_fieldKk (w : Word) : placeKk (fieldKk w) = w &&& 0x00FF := by
  rw [placeKk, fieldKk]
  ext i hi
  interval_cases i <;> simp

theorem fitsNnn_fieldNnn (w : Word) : fitsNnn (fieldNnn w) = true := by
  have : w.toNat &&& 0xFFF ≤ 0xFFF := Nat.and_le_right
  simpa [fitsNnn, fieldNnn] using Nat.lt_succ_of_le this

theorem fitsN_fieldN (w : Word) : fitsN (fieldN w) = true := decide_eq_true (w.extractLsb' 0 4).isLt

/-! ### The formats: fixed digits and the fields of a word give the word -/

theorem encodeA_fields {w p : Word} (h : w &&& 0xF000 = p) : p ||| fieldNnn w = w := by
  rw [fieldNnn, ← h, ← BitVec.and_or_distrib_left]
  exact BitVec.and_allOnes

theorem encodeXK_fields {w p : Word} (h : w &&& 0xF000 = p) : encodeXK p (fieldX w) (fieldKk w) = w := by
  rw [encodeXK, ← h, placeX_fieldX, placeKk_fieldKk, ← BitVec.and_or_distrib_left, ← BitVec.and_or_distrib_left]
  exact BitVec.and_allOnes

theorem encodeXY_fields {w p : Word} (h : w &&& 0xF00F = p) : encodeXY p (fieldX w) (fieldY w) = w := by
  rw [encodeXY, ← h, placeX_fieldX, placeY_fieldY, ← BitVec.and_or_distrib_left, ← BitVec.and_or_distrib_left]
  exact BitVec.and_allOnes

theorem encodeX_fields {w p : Word} (h : w &&& 0xF0FF = p) : encodeX p (fieldX w) = w := by
  rw [encodeX, ← h, placeX_fieldX, ← BitVec.and_or_distrib_left]
  exact BitVec.and_allOnes

theorem encodeXYN_fields {w p : Word} (h : w &&& 0xF000 = p) :
    encodeXY p (fieldX w) (fieldY w) ||| BitVec.ofNat 16 (fieldN w) = w := by
  rw [encodeXY, ← h, placeX_fieldX, placeY_fieldY, ofNat_fieldN, ← BitVec.and_or_distrib_left,
    ← BitVec.and_or_distrib_left, ← BitVec.and_or_distrib_left]
  exact BitVec.and_allOnes

/-! ### The fields of an encoded instruction

Reading a field distributes over the union of the fixed digits and the placed operands, and a placed operand is zero in every
field but its own. -/

theorem reg_or_zero (x : Reg) : x ||| 0 = x := by revert x; decide

theorem reg_zero_or (x : Reg) : 0 ||| x = x := by revert x; decide

theorem fieldX_or (v w : Word) : fieldX (v ||| w) = fieldX v ||| fieldX w := by
  rw [fieldX, BitVec.extractLsb'_or, BitVec.toFin_or]
  rfl

theorem fieldY_or (v w : Word) : fieldY (v ||| w) = fieldY v ||| fieldY w := by
  rw [fieldY, BitVec.extractLsb'_or, BitVec.toFin_or]
  rfl

theorem fieldN_or (v w : Word) : fieldN (v ||| w) = fieldN v ||| fieldN w := by
  rw [fieldN, BitVec.extractLsb'_or, BitVec.toNat_or]
  rfl

theorem fieldKk_or (v w : Word) : fieldKk (v ||| w) = fieldKk v ||| fieldKk w := BitVec.extractLsb'_or

theorem fieldX_placeX (x : Reg) : fieldX (placeX x) = x := by revert x; decide

theorem fieldY_placeX (x : Reg) : fieldY (placeX x) = 0 := by revert x; decide

theorem fieldN_placeX (x : Reg) : fieldN (placeX x) = 0 := by revert x; decide

theorem fieldKk_placeX (x : Reg) : fieldKk (placeX x) = 0#8 := by revert x; decide

theorem fieldX_placeY (y : Reg) : fieldX (placeY y) = 0 := by revert y; decide

theorem fieldY_placeY (y : Reg) : fieldY (placeY y) = y := by revert y; decide

theorem fieldN_placeY (y : Reg) : fieldN (placeY y) = 0 := by revert y; decide

/-- A word below `2 ^ k` has no bit from `k` up. -/
theorem extractLsb'_eq_zero {w : Word} {start len : Nat} (h : w.toNat < 2 ^ start) : w.extractLsb' start len = 0 := by
  apply BitVec.eq_of_toNat_eq
  rw [BitVec.extractLsb'_toNat, Nat.shiftRight_eq_div_pow, Nat.div_eq_of_lt h]
  rfl

theorem fieldX_placeKk (kk : Byte) : fieldX (placeKk kk) = 0 := by
  have hlow : (placeKk kk).toNat < 2 ^ 8 := by
    rw [placeKk, BitVec.toNat_setWidth]
    omega
  rw [fieldX, extractLsb'_eq_zero hlow]
  rfl

theorem fieldKk_placeKk (kk : Byte) : fieldKk (placeKk kk) = kk := by
  apply BitVec.eq_of_toNat_eq
  rw [fieldKk, BitVec.extractLsb'_toNat, placeKk, BitVec.toNat_setWidth, Nat.shiftRight_zero]
  omega

theorem fieldX_ofNat {n : Nat} (h : n < 16) : fieldX (BitVec.ofNat 16 n) = 0 := by
  interval_cases n <;> rfl

theorem fieldY_ofNat {n : Nat} (h : n < 16) : fieldY (BitVec.ofNat 16 n) = 0 := by
  interval_cases n <;> rfl

theorem fieldN_ofNat {n : Nat} (h : n < 16) : fieldN (BitVec.ofNat 16 n) = n := by
  interval_cases n <;> rfl

theorem fieldNnn_encodeA {p nnn : Word} (hp : fieldNnn p = 0#16) (h : fitsNnn nnn = true) : fieldNnn (p ||| nnn) = nnn := by
  have hnnn : nnn &&& 0x0FFF = nnn := by
    have hlt : nnn.toNat < 2 ^ 12 := of_decide_eq_true h
    apply BitVec.eq_of_toNat_eq
    rw [BitVec.toNat_and]
    exact (Nat.and_two_pow_sub_one_eq_mod _ 12).trans (Nat.mod_eq_of_lt hlt)
  rw [fieldNnn] at hp ⊢
  rw [BitVec.and_or_distrib_right, hp, hnnn, BitVec.zero_or]

theorem fieldX_encodeXK {p : Word} (hp : fieldX p = 0) (x : Reg) (kk : Byte) : fieldX (encodeXK p x kk) = x := by
  rw [encodeXK, fieldX_or, fieldX_or, fieldX_placeX, fieldX_placeKk, hp, reg_zero_or, reg_or_zero]

theorem fieldKk_encodeXK {p : Word} (hp : fieldKk p = 0#8) (x : Reg) (kk : Byte) : fieldKk (encodeXK p x kk) = kk := by
  rw [encodeXK, fieldKk_or, fieldKk_or, fieldKk_placeX, fieldKk_placeKk, hp, BitVec.zero_or, BitVec.zero_or]

theorem fieldX_encodeXY {p : Word} (hp : fieldX p = 0) (x y : Reg) : fieldX (encodeXY p x y) = x := by
  rw [encodeXY, fieldX_or, fieldX_or, fieldX_placeX, fieldX_placeY, hp, reg_zero_or, reg_or_zero]

theorem fieldY_encodeXY {p : Word} (hp : fieldY p = 0) (x y : Reg) : fieldY (encodeXY p x y) = y := by
  rw [encodeXY, fieldY_or, fieldY_or, fieldY_placeX, fieldY_placeY, hp, reg_zero_or, reg_zero_or]

theorem fieldN_encodeXY {p : Word} (hp : fieldN p = 0) (x y : Reg) : fieldN (encodeXY p x y) = 0 := by
  rw [encodeXY, fieldN_or, fieldN_or, fieldN_placeX, fieldN_placeY, hp]
  rfl

theorem fieldX_encodeX {p : Word} (hp : fieldX p = 0) (x : Reg) : fieldX (encodeX p x) = x := by
  rw [encodeX, fieldX_or, fieldX_placeX, hp, reg_zero_or]

/-! ### The fixed digits of a word -/

theorem and_F000_of_top {w p : Word} {k : Nat} (h : fieldTop w = k) (hp : BitVec.ofNat 16 k <<< 12 = p) :
    w &&& 0xF000 = p := by
  rw [← hp, ← h, shiftLeft_fieldTop]

theorem and_F00F_of_top_n {w p : Word} {k n : Nat} (h : fieldTop w = k) (hn : fieldN w = n)
    (hp : BitVec.ofNat 16 k <<< 12 ||| BitVec.ofNat 16 n = p) : w &&& 0xF00F = p := by
  rw [← hp, ← h, ← hn, shiftLeft_fieldTop, ofNat_fieldN, ← BitVec.and_or_distrib_left]
  rfl

theorem and_F0FF_of_top_kk {w p : Word} {k n : Nat} (h : fieldTop w = k) (hkk : (fieldKk w).toNat = n)
    (hp : BitVec.ofNat 16 k <<< 12 ||| BitVec.ofNat 16 n = p) : w &&& 0xF0FF = p := by
  rw [← hp, ← h, ← hkk, shiftLeft_fieldTop, BitVec.ofNat_toNat, ← placeKk, placeKk_fieldKk, ← BitVec.and_or_distrib_left]
  rfl

theorem and_FFFF_of_top_nnn {w nnn p : Word} {k : Nat} (h : fieldTop w = k) (hnnn : fieldNnn w = nnn)
    (hp : BitVec.ofNat 16 k <<< 12 ||| nnn = p) : w &&& 0xFFFF = p := by
  rw [← hp, ← h, ← hnnn, shiftLeft_fieldTop, fieldNnn, ← BitVec.and_or_distrib_left]
  rfl

/-- A field that the mask covers is that of the pattern. -/
theorem extractLsb'_of_match {w m p : Word} {start len : Nat} (h : w &&& m = p)
    (hm : m.extractLsb' start len = BitVec.allOnes len) : w.extractLsb' start len = p.extractLsb' start len := by
  rw [← h, BitVec.extractLsb'_and, hm, BitVec.and_allOnes]

end Sys2Proof
end

section
/-! PROOFS. Decoding, encoding and the opcode map (spec R94 to R106). A word matches the row of an instruction exactly when it
decodes to an instruction of that row, the one with the operands in its fields. -/

namespace Sys2Proof

/-- The instruction of the row of `i` with the operands that stand in the fields of `w` (R91). -/
def Instr.withFields (i : Instr) (w : Word) : Instr :=
  match i with
  | .cls => .cls
  | .ret => .ret
  | .jp _ => .jp (fieldNnn w)
  | .call _ => .call (fieldNnn w)
  | .seVxKk _ _ => .seVxKk (fieldX w) (fieldKk w)
  | .sneVxKk _ _ => .sneVxKk (fieldX w) (fieldKk w)
  | .seVxVy _ _ => .seVxVy (fieldX w) (fieldY w)
  | .ldVxKk _ _ => .ldVxKk (fieldX w) (fieldKk w)
  | .addVxKk _ _ => .addVxKk (fieldX w) (fieldKk w)
  | .ldVxVy _ _ => .ldVxVy (fieldX w) (fieldY w)
  | .orVxVy _ _ => .orVxVy (fieldX w) (fieldY w)
  | .andVxVy _ _ => .andVxVy (fieldX w) (fieldY w)
  | .xorVxVy _ _ => .xorVxVy (fieldX w) (fieldY w)
  | .addVxVy _ _ => .addVxVy (fieldX w) (fieldY w)
  | .subVxVy _ _ => .subVxVy (fieldX w) (fieldY w)
  | .shrVx _ _ => .shrVx (fieldX w) (fieldY w)
  | .subnVxVy _ _ => .subnVxVy (fieldX w) (fieldY w)
  | .shlVx _ _ => .shlVx (fieldX w) (fieldY w)
  | .sneVxVy _ _ => .sneVxVy (fieldX w) (fieldY w)
  | .ldINnn _ => .ldINnn (fieldNnn w)
  | .jpV0 _ => .jpV0 (fieldNnn w)
  | .rnd _ _ => .rnd (fieldX w) (fieldKk w)
  | .drw _ _ _ => .drw (fieldX w) (fieldY w) (fieldN w)
  | .skp _ => .skp (fieldX w)
  | .sknp _ => .sknp (fieldX w)
  | .ldVxDt _ => .ldVxDt (fieldX w)
  | .ldVxK _ => .ldVxK (fieldX w)
  | .ldDtVx _ => .ldDtVx (fieldX w)
  | .ldStVx _ => .ldStVx (fieldX w)
  | .addIVx _ => .addIVx (fieldX w)
  | .ldFVx _ => .ldFVx (fieldX w)
  | .ldBVx _ => .ldBVx (fieldX w)
  | .ldMiVx _ => .ldMiVx (fieldX w)
  | .ldVxMi _ => .ldVxMi (fieldX w)

theorem Instr.row_withFields (i : Instr) (w : Word) : (i.withFields w).row = i.row := by
  cases i <;> rfl

theorem Instr.wellFormed_withFields (i : Instr) (w : Word) : (i.withFields w).wellFormed = true := by
  cases i with
  | jp | call | ldINnn | jpV0 => exact fitsNnn_fieldNnn w
  | drw => exact fitsN_fieldN w
  | _ => rfl

/-- The encoder puts the operands where the decoder reads them. -/
theorem Instr.withFields_encode {i : Instr} (h : i.wellFormed = true) : i.withFields (encode i) = i := by
  cases i with
  | cls | ret => rfl
  | jp | call | ldINnn | jpV0 => exact congrArg _ (fieldNnn_encodeA rfl h)
  | seVxKk x kk | sneVxKk x kk | ldVxKk x kk | addVxKk x kk | rnd x kk =>
    exact congrArg₂ _ (fieldX_encodeXK rfl x kk) (fieldKk_encodeXK rfl x kk)
  | seVxVy x y | ldVxVy x y | orVxVy x y | andVxVy x y | xorVxVy x y | addVxVy x y | subVxVy x y | shrVx x y
  | subnVxVy x y | shlVx x y | sneVxVy x y =>
    exact congrArg₂ _ (fieldX_encodeXY rfl x y) (fieldY_encodeXY rfl x y)
  | drw x y n =>
    have hn : n < 16 := of_decide_eq_true h
    simp only [encode, Instr.withFields, fieldX_or, fieldY_or, fieldN_or, fieldX_ofNat hn, fieldY_ofNat hn, fieldN_ofNat hn,
      reg_or_zero, fieldX_encodeXY (p := 0xD000) rfl, fieldY_encodeXY (p := 0xD000) rfl,
      fieldN_encodeXY (p := 0xD000) rfl, Nat.zero_or]
  | skp x | sknp x | ldVxDt x | ldVxK x | ldDtVx x | ldStVx x | addIVx x | ldFVx x | ldBVx x | ldMiVx x | ldVxMi x =>
    exact congrArg _ (fieldX_encodeX rfl x)

/-- A word of the row is the encoding of the row's instruction with the word's fields. -/
theorem encode_withFields {i : Instr} {w : Word} (h : w &&& i.row.mask = i.row.pattern) : encode (i.withFields w) = w := by
  cases i with
  | cls | ret => exact h.symm.trans BitVec.and_allOnes
  | jp | call | ldINnn | jpV0 => exact encodeA_fields h
  | seVxKk | sneVxKk | ldVxKk | addVxKk | rnd => exact encodeXK_fields h
  | seVxVy | ldVxVy | orVxVy | andVxVy | xorVxVy | addVxVy | subVxVy | shrVx | subnVxVy | shlVx | sneVxVy =>
    exact encodeXY_fields h
  | drw => exact encodeXYN_fields h
  | skp | sknp | ldVxDt | ldVxK | ldDtVx | ldStVx | addIVx | ldFVx | ldBVx | ldMiVx | ldVxMi => exact encodeX_fields h

/-! ### The decoder on the words of a row -/

theorem fieldTop_of_row {i : Instr} {w : Word} (h : w &&& i.row.mask = i.row.pattern) :
    fieldTop w = fieldTop i.row.pattern := by
  have hmask : i.row.mask.extractLsb' 12 4 = BitVec.allOnes 4 := by
    cases i <;> rw [Instr.row] <;> rfl
  rw [fieldTop, extractLsb'_of_match h hmask, fieldTop]

theorem fieldN_of_match {w p : Word} {n : Nat} (h : w &&& 0xF00F = p) (hn : fieldN p = n) : fieldN w = n := by
  rw [← hn, fieldN, extractLsb'_of_match h rfl, fieldN]

theorem fieldKk_of_match {w p : Word} {n : Nat} (h : w &&& 0xF0FF = p) (hn : (fieldKk p).toNat = n) :
    (fieldKk w).toNat = n := by
  rw [← hn, fieldKk, extractLsb'_of_match h rfl, fieldKk]

/-- A word of the row of `i` decodes to the row's instruction with the word's fields. -/
theorem decode_of_row {i : Instr} {w : Word} (h : w &&& i.row.mask = i.row.pattern) :
    decode w = .instr (i.withFields w) := by
  have htop := fieldTop_of_row h
  cases i with
  | cls | ret =>
    obtain rfl : w = _ := BitVec.and_allOnes.symm.trans h
    rfl
  | jp | call | ldINnn | jpV0 | seVxKk | sneVxKk | ldVxKk | addVxKk | rnd | drw =>
    rw [Instr.row] at htop
    rw [decode, htop]
    rfl
  | seVxVy | sneVxVy =>
    rw [Instr.row] at h htop
    rw [decode, htop]
    exact if_pos (fieldN_of_match h rfl)
  | ldVxVy | orVxVy | andVxVy | xorVxVy | addVxVy | subVxVy | shrVx | subnVxVy | shlVx =>
    rw [Instr.row] at h htop
    rw [decode, htop]
    change decodeFamily8 w = _
    rw [decodeFamily8, fieldN_of_match h rfl]
    rfl
  | skp | sknp =>
    rw [Instr.row] at h htop
    rw [decode, htop]
    change decodeFamilyE w = _
    rw [decodeFamilyE, fieldKk_of_match h rfl]
    rfl
  | ldVxDt | ldVxK | ldDtVx | ldStVx | addIVx | ldFVx | ldBVx | ldMiVx | ldVxMi =>
    rw [Instr.row] at h htop
    rw [decode, htop]
    change decodeFamilyF w = _
    rw [decodeFamilyF, fieldKk_of_match h rfl]
    rfl

end Sys2Proof
end

section
/-! PROOFS. The decoder is the inverse of the encoder and the opcode map (spec R94 to R106). -/

namespace Sys2Proof

open Sys2Proof.Machine Sys2Proof.Claims

/-! ### What the decoder answers, family by family -/

theorem row_of_decodeFamily0 {w : Word} {i : Instr} (htop : fieldTop w = 0) (h : decodeFamily0 w = .instr i) :
    w &&& i.row.mask = i.row.pattern := by
  unfold decodeFamily0 at h
  split at h
  next hnnn => cases h; exact and_FFFF_of_top_nnn htop hnnn rfl
  next =>
    split at h
    next hnnn => cases h; exact and_FFFF_of_top_nnn htop hnnn rfl
    next => cases h

theorem row_of_decodeFamily8 {w : Word} {i : Instr} (htop : fieldTop w = 8) (h : decodeFamily8 w = .instr i) :
    w &&& i.row.mask = i.row.pattern := by
  unfold decodeFamily8 at h
  split at h <;> cases h <;> rw [Instr.row] <;> exact and_F00F_of_top_n htop (by assumption) rfl

theorem row_of_decodeFamilyE {w : Word} {i : Instr} (htop : fieldTop w = 0xE) (h : decodeFamilyE w = .instr i) :
    w &&& i.row.mask = i.row.pattern := by
  unfold decodeFamilyE at h
  split at h <;> cases h <;> rw [Instr.row] <;> exact and_F0FF_of_top_kk htop (by assumption) rfl

theorem row_of_decodeFamilyF {w : Word} {i : Instr} (htop : fieldTop w = 0xF) (h : decodeFamilyF w = .instr i) :
    w &&& i.row.mask = i.row.pattern := by
  unfold decodeFamilyF at h
  split at h <;> cases h <;> rw [Instr.row] <;> exact and_F0FF_of_top_kk htop (by assumption) rfl

theorem row_of_ite_fieldN {w : Word} {i j : Instr} (h : (if fieldN w = 0 then Decoded.instr j else .unknown w) = .instr i) :
    fieldN w = 0 ∧ i = j := by
  split at h
  next hn => exact ⟨hn, (Decoded.instr.inj h).symm⟩
  next => cases h

theorem fieldTop_lt (w : Word) : fieldTop w < 16 := (w.extractLsb' 12 4).isLt

/-- A family with one instruction fixes the top nibble alone. -/
theorem row_of_family {w : Word} {i j : Instr} {k : Nat} (htop : fieldTop w = k) (h : Decoded.instr j = .instr i)
    (hmask : j.row.mask = 0xF000) (hpattern : BitVec.ofNat 16 k <<< 12 = j.row.pattern) :
    w &&& i.row.mask = i.row.pattern := by
  obtain rfl := Decoded.instr.inj h
  rw [hmask]
  exact and_F000_of_top htop hpattern

/-- Families 0x5 and 0x9 fix the top and the low nibble (R98). -/
theorem row_of_familyXY0 {w : Word} {i j : Instr} {k : Nat} (htop : fieldTop w = k)
    (h : (if fieldN w = 0 then Decoded.instr j else .unknown w) = .instr i) (hmask : j.row.mask = 0xF00F)
    (hpattern : BitVec.ofNat 16 k <<< 12 ||| BitVec.ofNat 16 0 = j.row.pattern) :
    w &&& i.row.mask = i.row.pattern := by
  obtain ⟨hn, rfl⟩ := row_of_ite_fieldN h
  rw [hmask]
  exact and_F00F_of_top_n htop hn hpattern

/-- A word that decodes matches the row of what it decodes to. The sixteen families stand in the order of the top nibble. -/
theorem row_of_decode {w : Word} {i : Instr} (h : decode w = .instr i) : w &&& i.row.mask = i.row.pattern := by
  unfold decode at h
  have hlt := fieldTop_lt w
  generalize htop : fieldTop w = k at h hlt
  interval_cases k
  · exact row_of_decodeFamily0 htop h
  · exact row_of_family htop h rfl rfl
  · exact row_of_family htop h rfl rfl
  · exact row_of_family htop h rfl rfl
  · exact row_of_family htop h rfl rfl
  · exact row_of_familyXY0 htop h rfl rfl
  · exact row_of_family htop h rfl rfl
  · exact row_of_family htop h rfl rfl
  · exact row_of_decodeFamily8 htop h
  · exact row_of_familyXY0 htop h rfl rfl
  · exact row_of_family htop h rfl rfl
  · exact row_of_family htop h rfl rfl
  · exact row_of_family htop h rfl rfl
  · exact row_of_family htop h rfl rfl
  · exact row_of_decodeFamilyE htop h
  · exact row_of_decodeFamilyF htop h

/-! ### The inverses -/

open Sys2Proof.Laws in
/-- The family EncodeMatches of Laws/PerInstr.lean, in one: an encoded instruction matches its own row. -/
theorem encode_matches_row : ∀ i : Instr, EncodeMatches.Statement i
  | .cls => EncodeMatches.cls
  | .ret => EncodeMatches.ret
  | .jp nnn => EncodeMatches.jp nnn
  | .call nnn => EncodeMatches.call nnn
  | .seVxKk x kk => EncodeMatches.seVxKk x kk
  | .sneVxKk x kk => EncodeMatches.sneVxKk x kk
  | .seVxVy x y => EncodeMatches.seVxVy x y
  | .ldVxKk x kk => EncodeMatches.ldVxKk x kk
  | .addVxKk x kk => EncodeMatches.addVxKk x kk
  | .ldVxVy x y => EncodeMatches.ldVxVy x y
  | .orVxVy x y => EncodeMatches.orVxVy x y
  | .andVxVy x y => EncodeMatches.andVxVy x y
  | .xorVxVy x y => EncodeMatches.xorVxVy x y
  | .addVxVy x y => EncodeMatches.addVxVy x y
  | .subVxVy x y => EncodeMatches.subVxVy x y
  | .shrVx x y => EncodeMatches.shrVx x y
  | .subnVxVy x y => EncodeMatches.subnVxVy x y
  | .shlVx x y => EncodeMatches.shlVx x y
  | .sneVxVy x y => EncodeMatches.sneVxVy x y
  | .ldINnn nnn => EncodeMatches.ldINnn nnn
  | .jpV0 nnn => EncodeMatches.jpV0 nnn
  | .rnd x kk => EncodeMatches.rnd x kk
  | .drw x y n => EncodeMatches.drw x y n
  | .skp x => EncodeMatches.skp x
  | .sknp x => EncodeMatches.sknp x
  | .ldVxDt x => EncodeMatches.ldVxDt x
  | .ldVxK x => EncodeMatches.ldVxK x
  | .ldDtVx x => EncodeMatches.ldDtVx x
  | .ldStVx x => EncodeMatches.ldStVx x
  | .addIVx x => EncodeMatches.addIVx x
  | .ldFVx x => EncodeMatches.ldFVx x
  | .ldBVx x => EncodeMatches.ldBVx x
  | .ldMiVx x => EncodeMatches.ldMiVx x
  | .ldVxMi x => EncodeMatches.ldVxMi x

/-- Section 6 of 30_encoding.md, one direction: decoding inverts encoding. -/
theorem decode_encode {i : Instr} (h : i.wellFormed = true) : decode (encode i) = .instr i := by
  rw [decode_of_row (beq_iff_eq.1 (encode_matches_row i h)), Instr.withFields_encode h]

/-- The other direction: what a word decodes to has its operands in the word's fields. -/
theorem eq_withFields_of_decode {w : Word} {i : Instr} (h : decode w = .instr i) : i = i.withFields w :=
  Decoded.instr.inj (h.symm.trans (decode_of_row (row_of_decode h)))

theorem wellFormed_of_decode {w : Word} {i : Instr} (h : decode w = .instr i) : i.wellFormed = true := by
  rw [eq_withFields_of_decode h]
  exact i.wellFormed_withFields w

theorem encode_of_decode {w : Word} {i : Instr} (h : decode w = .instr i) : encode i = w := by
  rw [eq_withFields_of_decode h]
  exact encode_withFields (row_of_decode h)

theorem wordOfBytes_hiByte_loByte (w : Word) : wordOfBytes (hiByte w) (loByte w) = w := by
  apply BitVec.eq_of_toNat_eq
  simp only [wordOfBytes, hiByte, loByte, BitVec.toNat_append, BitVec.extractLsb'_toNat]
  rw [← Nat.shiftLeft_add_eq_or_of_lt (Nat.mod_lt _ (by decide)), Nat.shiftLeft_eq, Nat.shiftRight_eq_div_pow]
  omega

theorem decodeBytes_encodeBytes {i : Instr} (rest : List Byte) (h : i.wellFormed = true) :
    decodeBytes (encodeBytes i ++ rest) = .instr i rest := by
  simp [encodeBytes, decodeBytes, wordOfBytes_hiByte_loByte, decode_encode h]

/-- Settles O1: an encoded instruction matches its row, so it decodes to the row's instruction with the fields of the
encoding, and those are the operands. -/
theorem decodeOfEncodeIsTheInstruction : Obligations.DecodeOfEncodeIsTheInstruction := by
  intro i rest hwf
  exact ⟨decode_encode hwf, decodeBytes_encodeBytes rest hwf⟩

/-- Settles O2: a word is the union of the fixed digits of its row and of its fields. -/
theorem encodeOfDecodeIsTheWord : Obligations.EncodeOfDecodeIsTheWord := by
  intro w i h
  exact ⟨wellFormed_of_decode h, encode_of_decode h⟩

/-! ### The opcode map -/

/-- One instruction of each row of the opcode map, in the table's order. -/
def instrOfEachRow : List Instr :=
  [.cls, .ret, .jp 0, .call 0, .seVxKk 0 0, .sneVxKk 0 0, .seVxVy 0 0, .ldVxKk 0 0, .addVxKk 0 0, .ldVxVy 0 0, .orVxVy 0 0,
    .andVxVy 0 0, .xorVxVy 0 0, .addVxVy 0 0, .subVxVy 0 0, .shrVx 0 0, .subnVxVy 0 0, .shlVx 0 0, .sneVxVy 0 0, .ldINnn 0,
    .jpV0 0, .rnd 0 0, .drw 0 0 0, .skp 0, .sknp 0, .ldVxDt 0, .ldVxK 0, .ldDtVx 0, .ldStVx 0, .addIVx 0, .ldFVx 0, .ldBVx 0,
    .ldMiVx 0, .ldVxMi 0]

theorem opcodeMap_eq_rows : opcodeMap = instrOfEachRow.map Instr.row := rfl

theorem exists_instr_of_mem_opcodeMap {r : OpcodeRow} (h : r ∈ opcodeMap) : ∃ i : Instr, i.row = r := by
  rw [opcodeMap_eq_rows, List.mem_map] at h
  obtain ⟨i, -, hi⟩ := h
  exact ⟨i, hi⟩

theorem row_mem_opcodeMap (i : Instr) : i.row ∈ opcodeMap := by
  cases i <;> rw [Instr.row] <;> decide

/-- A word that matches a row of the map decodes to an instruction of that row. -/
theorem decode_of_matchesWord {r : OpcodeRow} {w : Word} (hr : r ∈ opcodeMap) (h : r.matchesWord w = true) :
    ∃ i, decode w = .instr i ∧ i.row = r := by
  obtain ⟨i, rfl⟩ := exists_instr_of_mem_opcodeMap hr
  exact ⟨i.withFields w, decode_of_row (beq_iff_eq.1 h), i.row_withFields w⟩

/-- Settles O3: every branch of the decoder fixes the digits of one row, and the digits of a row lead to its branch. -/
theorem decoderIsTheOpcodeMap : Obligations.DecoderIsTheOpcodeMap := by
  intro w
  exact ⟨fun i h => ⟨row_mem_opcodeMap i, beq_iff_eq.2 (row_of_decode h)⟩, fun r hr h => decode_of_matchesWord hr h⟩

/-- Settles O4: a word decodes to one instruction, whose row is every row the word matches. -/
theorem noWordMatchesTwoRows : Obligations.NoWordMatchesTwoRows := by
  intro w r hr r' hr' h h'
  obtain ⟨i, hi, rfl⟩ := decode_of_matchesWord hr h
  obtain ⟨i', hi', rfl⟩ := decode_of_matchesWord hr' h'
  rw [Decoded.instr.inj (hi.symm.trans hi')]

/-- Settles O6: the decoder evaluated on the twelve words. -/
theorem sampleWordsDecode : Obligations.SampleWordsDecode := by
  unfold Obligations.SampleWordsDecode
  decide

end Sys2Proof
end

section
/-! PROOFS. The invariant of reachable machines (spec R39) and the canonical form of memory. -/

namespace Sys2Proof.Machine

open Sys2Proof.Claims

/-! ### The bounds -/

/-- The invariant speaks of memory, pc and the stack alone. -/
theorem State.Inv.of_eq {s t : State} (hs : s.Inv) (hmem : t.mem = s.mem) (hpc : t.pc.toNat ≤ 0x10FE)
    (hstack : t.stack = s.stack) : t.Inv :=
  ⟨hmem ▸ hs.memWf, hpc, hstack ▸ hs.stackBound⟩

theorem State.Inv.of_mem {s t : State} (hs : s.Inv) (hmem : t.mem.wf = true) (hpc : t.pc.toNat ≤ 0x10FE)
    (hstack : t.stack = s.stack) : t.Inv :=
  ⟨hmem, hpc, hstack ▸ hs.stackBound⟩

theorem toNat_add_two_le {w : Word} (h : w.toNat ≤ 0xFFE) : (w + 2).toNat ≤ 0x1000 := by
  bv_omega

theorem State.skipIf_pc_le {s : State} (taken : Bool) (h : s.pc.toNat ≤ 0xFFE) :
    (s.skipIf taken).pc.toNat ≤ 0x10FE := by
  rw [State.skipIf_pc]
  split <;> bv_omega

theorem toNat_le_of_fitsNnn {nnn : Word} (h : fitsNnn nnn = true) : nnn.toNat ≤ 0xFFF :=
  Nat.le_of_lt_succ (of_decide_eq_true h)

/-- The sum of the computed jump is the unbounded one. -/
theorem toNat_setWidth_add {b : Byte} {nnn : Word} (h : fitsNnn nnn = true) :
    (b.setWidth 16 + nnn).toNat = b.toNat + nnn.toNat := by
  have := toNat_le_of_fitsNnn h
  rw [BitVec.toNat_add, BitVec.toNat_setWidth]
  omega

/-- An instruction the decoder can answer, fetched from inside memory, keeps the invariant (R39). -/
theorem exec_keeps_inv {i : Instr} {s t : State} (hs : s.Inv) (hpc : s.pc.toNat ≤ 0xFFE) (hi : i.wellFormed = true)
    (h : exec i s = .next t) : t.Inv := by
  have hadv : (s.pc + 2).toNat ≤ 0x10FE := (toNat_add_two_le hpc).trans (by decide)
  cases i with
  | ret =>
    obtain ⟨k, -, rfl⟩ := exec_ret_next h
    exact hs.of_eq rfl ((hs.stackBound k).trans (by decide)) rfl
  | call nnn =>
    obtain ⟨hsp, rfl⟩ := exec_call_next h
    refine ⟨hs.memWf, (toNat_le_of_fitsNnn hi).trans (by decide), fun j => ?_⟩
    change ((s.stack.set s.sp.val (s.pc + 2) hsp)[j.val]).toNat ≤ 0x1000
    rw [Vector.getElem_set]
    split
    · exact toNat_add_two_le hpc
    · exact hs.stackBound j
  | jp nnn =>
    cases h
    exact hs.of_eq rfl ((toNat_le_of_fitsNnn hi).trans (by decide)) rfl
  | jpV0 nnn =>
    cases h
    refine hs.of_eq rfl ?_ rfl
    have := toNat_le_of_fitsNnn hi
    rw [State.jumpTo_pc, toNat_setWidth_add hi]
    omega
  | seVxKk | sneVxKk | seVxVy | sneVxVy =>
    cases h
    exact hs.of_eq rfl (State.skipIf_pc_le _ hpc) rfl
  | skp x =>
    obtain ⟨-, rfl⟩ := exec_skp_next h
    exact hs.of_eq rfl (State.skipIf_pc_le _ hpc) rfl
  | sknp x =>
    obtain ⟨-, rfl⟩ := exec_sknp_next h
    exact hs.of_eq rfl (State.skipIf_pc_le _ hpc) rfl
  | ldVxK x =>
    obtain ⟨-, rfl⟩ | ⟨k, -, rfl⟩ := exec_ldVxK_next h
    · exact hs
    · exact hs.of_eq rfl hadv rfl
  | drw x y n =>
    obtain ⟨-, rfl⟩ := exec_drw_next h
    exact hs.of_eq rfl hadv rfl
  | ldBVx x =>
    obtain ⟨hin, rfl⟩ := exec_ldBVx_next h
    exact hs.of_mem (Memory.wf_writeBytes _ _ _ hin hs.memWf) hadv rfl
  | ldMiVx x =>
    obtain ⟨hin, rfl⟩ := exec_ldMiVx_next h
    have hend : s.dataAddr 0 + (s.regBlock x).length ≤ 0x1000 := by
      rw [s.regBlock_length]
      exact hin
    exact hs.of_mem (Memory.wf_writeBytes _ _ _ hend hs.memWf) hadv rfl
  | ldVxMi x =>
    obtain ⟨-, rfl⟩ := exec_ldVxMi_next h
    exact hs.of_eq (by simp) (by simpa using hadv) (by simp)
  | _ =>
    cases h
    exact hs.of_eq rfl hadv rfl

/-- Settles O22: the fetch bounds pc, so the next pc, a pushed return address and every stored address stay in their
bounds; the latch, the tick and the end of the input touch nothing the invariant speaks of. -/
theorem stepKeepsTheBounds : Obligations.StepKeepsTheBounds := by
  intro s u hs h
  obtain ⟨hfetch, i, t, hi, ht, rfl⟩ := (step_eq_next s u).1 h
  have hpc : s.pc.toNat ≤ 0xFFE := s.canFetch_iff.1 hfetch
  have hlatched : (s.latchOpcode s.fetchWord).Inv := hs.of_eq rfl hs.pcBound rfl
  have ht' : t.Inv := exec_keeps_inv hlatched hpc (wellFormed_of_decode hi) ht
  exact ht'.of_eq rfl ht'.pcBound rfl

/-- Settles O21: the lists of the reset machine are empty or constant. -/
theorem resetSatisfiesTheBounds : Obligations.ResetSatisfiesTheBounds where
  memWf := rfl
  pcBound := by decide
  stackBound := by decide

/-! ### The host operations -/

theorem replyOf_keeps_inv {s : State} {r : Result} (hs : s.Inv) (h : ∀ t, r = .next t → t.Inv) :
    (replyOf s r).2.Inv := by
  cases r with
  | next t => exact h t rfl
  | fault | refused => exact hs

theorem replyOfStep_keeps_inv {s : State} {r : Result} (hs : s.Inv) (h : ∀ t, r = .next t → t.Inv) :
    (replyOfStep s r).2.Inv := by
  cases r with
  | next t => exact h t rfl
  | fault f => exact hs.of_eq rfl hs.pcBound rfl
  | refused => exact hs

/-- An image that is loaded ends inside memory (R296). -/
theorem loadProgram_keeps_inv {s t : State} {name : String} {bytes : List Byte} (hs : s.Inv)
    (h : s.loadProgram name bytes = .next t) : t.Inv := by
  unfold State.loadProgram at h
  split at h
  next => cases h
  next hlen =>
    cases h
    refine hs.of_mem (Memory.wf_writeBytes _ _ _ ?_ hs.memWf) hs.pcBound rfl
    rw [gt_iff_lt, not_lt, Config.maxImage] at hlen
    exact Nat.add_le_of_le_sub' (by decide) hlen

theorem hostOp_keeps_inv {s : State} (op : HostOp) (hs : s.Inv) : (hostOp op s).2.Inv := by
  cases op with
  | initializeMachine => exact resetSatisfiesTheBounds.of_eq rfl resetSatisfiesTheBounds.pcBound rfl
  | loadProgram name bytes => exact replyOf_keeps_inv hs fun t h => loadProgram_keeps_inv hs h
  | stepWith rnd =>
    have hs' : (s.present rnd).Inv := hs.of_eq rfl hs.pcBound rfl
    exact replyOfStep_keeps_inv hs' fun t h => stepKeepsTheBounds _ t hs' h
  | clearDrawFlag => exact hs.of_eq rfl hs.pcBound rfl
  | setKey index pressed =>
    refine replyOf_keeps_inv hs fun t h => ?_
    rw [setKey_frame h]
    exact hs.of_eq rfl hs.pcBound rfl
  | drawPending | readFramebuffer | readSoundTimer | readOpcode => exact hs

/-- Settles O23: the invariant holds at reset and every host operation keeps it. -/
theorem reachableMachinesSatisfyTheBounds : Obligations.ReachableMachinesSatisfyTheBounds := by
  intro s h
  induction h with
  | boot => exact resetSatisfiesTheBounds
  | host s op _ ih => exact hostOp_keeps_inv op ih
  | free s t _ hstep ih => exact stepKeepsTheBounds s t ih hstep

/-! ### The canonical form -/

/-- A listed byte differs from what its address reads as where it is not listed. -/
theorem Memory.read_ne_read_cons {a : Nat} {b : Byte} {m rest : Memory} (hb : b ≠ initialByte a)
    (hm : Memory.wfFrom (a + 1) m = true) : Memory.read m a ≠ Memory.read ((a, b) :: rest) a := by
  rw [Memory.read_below hm (Nat.lt_succ_self a), Memory.read_cons, if_pos rfl]
  exact hb.symm

/-- Memories that read the same still do without their first entries, when those stand at the same address. -/
theorem Memory.read_rest_eq {a : Nat} {b b' : Byte} {rest rest' : Memory} (hrest : Memory.wfFrom (a + 1) rest = true)
    (hrest' : Memory.wfFrom (a + 1) rest' = true)
    (h : ∀ c < 0x1000, Memory.read ((a, b) :: rest) c = Memory.read ((a, b') :: rest') c) :
    ∀ c < 0x1000, Memory.read rest c = Memory.read rest' c := by
  intro c hc
  by_cases hac : a = c
  · rw [Memory.read_below hrest (by omega), Memory.read_below hrest' (by omega)]
  · have := h c hc
    rwa [Memory.read_cons, Memory.read_cons, if_neg hac, if_neg hac] at this

/-- By induction on both lists: the lower of two first addresses that differ is listed in one memory only. -/
theorem Memory.eq_of_read_eq : ∀ {lo lo' : Nat} {m m' : Memory}, Memory.wfFrom lo m = true → Memory.wfFrom lo' m' = true →
    (∀ a < 0x1000, Memory.read m a = Memory.read m' a) → m = m'
  | _, _, [], [], _, _, _ => rfl
  | _, _, [], (a, b) :: rest, _, hm', h => by
    obtain ⟨-, ha, hb, -⟩ := (Memory.wfFrom_cons _ a b rest).1 hm'
    exact absurd (h a ha) (Memory.read_ne_read_cons hb rfl)
  | _, _, (a, b) :: rest, [], hm, _, h => by
    obtain ⟨-, ha, hb, -⟩ := (Memory.wfFrom_cons _ a b rest).1 hm
    exact absurd (h a ha).symm (Memory.read_ne_read_cons hb rfl)
  | _, _, (a, b) :: rest, (a', b') :: rest', hm, hm', h => by
    obtain ⟨-, ha, hb, hrest⟩ := (Memory.wfFrom_cons _ a b rest).1 hm
    obtain ⟨-, ha', hb', hrest'⟩ := (Memory.wfFrom_cons _ a' b' rest').1 hm'
    rcases Nat.lt_trichotomy a a' with hlt | rfl | hlt
    · have habove := (Memory.wfFrom_cons (a + 1) a' b' rest').2 ⟨hlt, ha', hb', hrest'⟩
      exact absurd (h a ha).symm (Memory.read_ne_read_cons hb habove)
    · have hbb : b = b' := by simpa [Memory.read_cons] using h a ha
      rw [hbb, Memory.eq_of_read_eq hrest hrest' (Memory.read_rest_eq hrest hrest' h)]
    · have habove := (Memory.wfFrom_cons (a' + 1) a b rest).2 ⟨hlt, ha, hb, hrest⟩
      exact absurd (h a' ha') (Memory.read_ne_read_cons hb' habove)

/-- Settles O24: two canonical lists that read the same agree entry by entry. -/
theorem equalReadsMeanEqualMemories : Obligations.EqualReadsMeanEqualMemories := by
  intro m m' hm hm' h
  exact Memory.eq_of_read_eq hm hm' h

end Sys2Proof.Machine
end

section
/-! PROOFS. The phases of a step and its faults (spec R120, R128, R250 to R259). -/

namespace Sys2Proof.Claims

open Sys2Proof Sys2Proof.Machine

/-! ### The fetched word -/

theorem toNat_readWord (m : Memory) (a : Nat) :
    (m.readWord a).toNat = (m.read a).toNat * 256 + (m.read (a + 1)).toNat := by
  rw [Memory.readWord, BitVec.toNat_append, ← Nat.shiftLeft_add_eq_or_of_lt (BitVec.isLt _), Nat.shiftLeft_eq]

/-- The word the claims read at pc is the word the step fetches. -/
theorem wordAtPc_eq_fetchWord (s : State) : wordAtPc s = s.fetchWord := by
  rw [wordAtPc, ← toNat_readWord, BitVec.ofNat_toNat, BitVec.setWidth_eq, State.fetchWord]

theorem ofNat_toNat_sub_one (t : Byte) : BitVec.ofNat 8 (t.toNat - 1) = tickTimer t := by
  rw [← tickTimer_toNat, BitVec.ofNat_toNat, BitVec.setWidth_eq]

/-- The tick and the end of the input, in the words of the claims. -/
theorem ticked_eq (t : State) : ticked t = t.tick.endInput := by
  rw [ticked, ofNat_toNat_sub_one, ofNat_toNat_sub_one]
  rfl

/-- Settles O7: the three ways of a step, in the order of its phases. -/
theorem stepIsFetchDecodeExecuteTick : Obligations.StepIsFetchDecodeExecuteTick := by
  intro s
  refine ⟨fun hpc => step_outOfRange (s.canFetch_false_iff.2 hpc), fun hpc => ?_⟩
  have hfetch := s.canFetch_iff.2 hpc
  rw [wordAtPc_eq_fetchWord]
  refine ⟨fun w hw => step_unknown hfetch hw, fun i hi => ⟨fun t ht => ?_, fun f hf => ?_⟩⟩
  · rw [step_instr hfetch hi, ticked_eq]
    exact congrArg closeStep ht
  · rw [step_instr hfetch hi]
    exact congrArg closeStep hf

/-! ### Faults -/

theorem exec_drw_fault (s : State) (x y : Reg) (n : Nat) (f : Fault) :
    exec (.drw x y n) s = .fault f ↔
      (0 < n ∧ s.I.toNat + n - 1 > 0xFFF) ∧ f = .memOutOfRange s.pc s.opcode (max s.I.toNat 0x1000) :=
  (s.withAccess_eq_fault n _ f).trans (and_congr_left fun _ => by omega)

theorem exec_ldBVx_fault (s : State) (x : Reg) (f : Fault) :
    exec (.ldBVx x) s = .fault f ↔
      s.I.toNat + 2 > 0xFFF ∧ f = .memOutOfRange s.pc s.opcode (max s.I.toNat 0x1000) :=
  (s.withAccess_eq_fault 3 _ f).trans (and_congr_left fun _ => by omega)

theorem exec_ldMiVx_fault (s : State) (x : Reg) (f : Fault) :
    exec (.ldMiVx x) s = .fault f ↔
      s.I.toNat + x.val > 0xFFF ∧ f = .memOutOfRange s.pc s.opcode (max s.I.toNat 0x1000) :=
  (s.withAccess_eq_fault (x.val + 1) _ f).trans (and_congr_left fun _ => by omega)

theorem exec_ldVxMi_fault (s : State) (x : Reg) (f : Fault) :
    exec (.ldVxMi x) s = .fault f ↔
      s.I.toNat + x.val > 0xFFF ∧ f = .memOutOfRange s.pc s.opcode (max s.I.toNat 0x1000) :=
  (s.withAccess_eq_fault (x.val + 1) _ f).trans (and_congr_left fun _ => by omega)

theorem exec_ldVxK_ne_fault (s : State) (x : Reg) (f : Fault) : exec (.ldVxK x) s ≠ .fault f := by
  change execLdVxK x s ≠ .fault f
  unfold execLdVxK
  split <;> nofun

/-- Settles O11: each of the four makes the range test of its own access first. -/
theorem memoryAccessFaultsOutOfRange : Obligations.MemoryAccessFaultsOutOfRange := by
  intro s x y n f
  exact ⟨exec_drw_fault s x y n f, exec_ldBVx_fault s x f, exec_ldMiVx_fault s x f, exec_ldVxMi_fault s x f⟩

/-- Settles O9: the table of R250 evaluated. -/
theorem faultCodesAndInfo : Obligations.FaultCodesAndInfo := by
  intro pc w a b
  simp [Fault.code, Fault.info]

theorem ite_some_eq_some {α : Type} {p : Prop} [Decidable p] {a b : α} :
    (if p then some a else none) = some b ↔ p ∧ b = a := by
  split <;> simp_all [eq_comm]

/-- The execute phase raises exactly the fault the claims compute (R252, R253, R255, R256). -/
theorem exec_eq_fault_iff (i : Instr) (s : State) (f : Fault) :
    exec i s = .fault f ↔ executeFault i s.opcode s = some f := by
  cases i with
  | ret => exact (exec_ret_fault s f).trans ite_some_eq_some.symm
  | call nnn => exact (exec_call_fault s nnn f).trans ite_some_eq_some.symm
  | skp x => exact (exec_skp_fault s x f).trans ite_some_eq_some.symm
  | sknp x => exact (exec_sknp_fault s x f).trans ite_some_eq_some.symm
  | drw x y n =>
    exact ((exec_drw_fault s x y n f).trans (and_congr_left fun _ => by omega)).trans ite_some_eq_some.symm
  | ldBVx x => exact (exec_ldBVx_fault s x f).trans ite_some_eq_some.symm
  | ldMiVx x => exact (exec_ldMiVx_fault s x f).trans ite_some_eq_some.symm
  | ldVxMi x => exact (exec_ldVxMi_fault s x f).trans ite_some_eq_some.symm
  | ldVxK x => exact iff_of_false (exec_ldVxK_ne_fault s x f) nofun
  | _ => exact iff_of_false nofun nofun

/-- The latch is no input of the execute phase's fault: its record takes the word by itself. -/
theorem executeFault_latchOpcode (i : Instr) (w w' : Word) (s : State) :
    executeFault i w (s.latchOpcode w') = executeFault i w s := rfl

theorem stepFault_outOfRange {s : State} (hpc : s.canFetch = false) :
    stepFault s = some (.pcOutOfRange s.pc s.opcode) := if_pos (s.canFetch_false_iff.1 hpc)

theorem stepFault_unknown {s : State} {w : Word} (hpc : s.canFetch = true) (hw : decode s.fetchWord = .unknown w) :
    stepFault s = some (.unknownOpcode s.pc s.fetchWord) := by
  simp only [stepFault, if_neg (Nat.not_lt.2 (s.canFetch_iff.1 hpc)), wordAtPc_eq_fetchWord, hw]

theorem stepFault_instr {s : State} {i : Instr} (hpc : s.canFetch = true) (hi : decode s.fetchWord = .instr i) :
    stepFault s = executeFault i s.fetchWord s := by
  simp only [stepFault, if_neg (Nat.not_lt.2 (s.canFetch_iff.1 hpc)), wordAtPc_eq_fetchWord, hi]

/-- The faults of a step (R259): the claims' first fault in phase order is the one raised. -/
theorem step_fault_iff_stepFault (s : State) (f : Fault) : step s = .fault f ↔ stepFault s = some f := by
  rcases step_cases s with ⟨hpc, h⟩ | ⟨hpc, ⟨w, hw⟩, h⟩ | ⟨hpc, i, hi, h⟩
  · rw [h, stepFault_outOfRange hpc, Host.Outcome.fault.injEq, Option.some.injEq]
  · rw [h, stepFault_unknown hpc hw, Host.Outcome.fault.injEq, Option.some.injEq]
  · rw [h, stepFault_instr hpc hi, closeStep_eq_fault, exec_eq_fault_iff, State.latchOpcode_opcode,
      executeFault_latchOpcode]

theorem step_ne_refused (s : State) (r : Refusal) : step s ≠ .refused r := by
  rcases step_cases s with ⟨-, h⟩ | ⟨-, -, h⟩ | ⟨-, i, -, h⟩
  · rw [h]
    nofun
  · rw [h]
    nofun
  · rw [h, Ne, closeStep_eq_refused]
    exact exec_ne_refused i _ r

theorem step_next_or_fault (s : State) : (∃ t, step s = .next t) ∨ ∃ f, step s = .fault f := by
  cases h : step s with
  | next t => exact .inl ⟨t, rfl⟩
  | fault f => exact .inr ⟨f, rfl⟩
  | refused r => exact absurd h (step_ne_refused s r)

/-- Settles O8: a step ends in its first fault, or in a next state when there is none. -/
theorem stepFaultIsTheFirstInPhaseOrder : Obligations.StepFaultIsTheFirstInPhaseOrder := by
  intro s
  refine ⟨step_fault_iff_stepFault s, ⟨fun ⟨t, ht⟩ => ?_, fun hnone => ?_⟩, step_ne_refused s⟩
  · refine Option.eq_none_iff_forall_ne_some.2 fun f hf => ?_
    rw [(step_fault_iff_stepFault s f).2 hf] at ht
    cases ht
  · refine (step_next_or_fault s).resolve_right fun ⟨f, hf⟩ => ?_
    rw [(step_fault_iff_stepFault s f).1 hf] at hnone
    cases hnone

/-! ### After a fault -/

theorem latched_of_executeFault {i : Instr} {w : Word} {s : State} {f : Fault} (h : executeFault i w s = some f) :
    f.latched = some w := by
  cases i with
  | ret | call | skp | sknp | drw | ldBVx | ldMiVx | ldVxMi =>
    obtain ⟨-, rfl⟩ := ite_some_eq_some.1 h
    rfl
  | _ => cases h

theorem executeFault_ne_unknownOpcode (i : Instr) (w pc w' : Word) (s : State) :
    executeFault i w s ≠ some (.unknownOpcode pc w') := by
  intro h
  cases i with
  | ret | call | skp | sknp | drw | ldBVx | ldMiVx | ldVxMi =>
    obtain ⟨-, hf⟩ := ite_some_eq_some.1 h
    cases hf
  | _ => cases h

/-- The latch after a faulting step holds the fetched word when there was a fetch (R128, R258). -/
theorem afterFault_opcode_of_stepFault {s : State} {f : Fault} (h : stepFault s = some f) :
    (s.afterFault f).opcode = if s.pc.toNat > 0xFFE then s.opcode else s.fetchWord := by
  cases hpc : s.canFetch with
  | false =>
    obtain rfl := Option.some.inj ((stepFault_outOfRange hpc).symm.trans h)
    rw [if_pos (s.canFetch_false_iff.1 hpc)]
    rfl
  | true =>
    rw [if_neg (Nat.not_lt.2 (s.canFetch_iff.1 hpc)), State.afterFault_opcode]
    cases hd : decode s.fetchWord with
    | unknown w =>
      obtain rfl := Option.some.inj ((stepFault_unknown hpc hd).symm.trans h)
      rfl
    | instr i =>
      rw [latched_of_executeFault ((stepFault_instr hpc hd).symm.trans h)]
      rfl

/-- The first fault depends on the latch only when pc is out of range, and not on the keys or the input. -/
theorem stepFault_of_latch {s : State} {w : Word} (hw : s.pc.toNat > 0xFFE → w = s.opcode) (k : BitVec 16)
    (r : Option Byte) (n : Nat) :
    stepFault { s with opcode := w, key := k, rndIn := r, rndIndex := n } = stepFault s := by
  by_cases hpc : s.pc.toNat > 0xFFE
  · rw [hw hpc]
    rfl
  · exact (if_neg hpc).trans (if_neg hpc).symm

/-- Settles O10: the record of a fault after the fetch holds the fetched word, and the first fault does not depend on what
the fault changed, on the keys or on the random byte. -/
theorem faultLeavesTheMachineAndRecurs : Obligations.FaultLeavesTheMachineAndRecurs := by
  intro s f h
  have hf := (step_fault_iff_stepFault s f).1 h
  have hopcode := afterFault_opcode_of_stepFault hf
  rw [wordAtPc_eq_fetchWord]
  refine ⟨?_, fun k r => ?_⟩
  · rw [← hopcode]
    rfl
  · rw [step_fault_iff_stepFault, ← hf]
    refine stepFault_of_latch (s := s) (w := (s.afterFault f).opcode) (fun hpc => ?_) k r (s.rndIndex + 1)
    rw [hopcode, if_pos hpc]

/-! ### The Unknown words -/

theorem fieldTop_eq_div (w : Word) : fieldTop w = w.toNat / 0x1000 := by
  rw [fieldTop, BitVec.extractLsb'_toNat, Nat.shiftRight_eq_div_pow]
  omega

theorem fieldN_eq_mod (w : Word) : fieldN w = w.toNat % 16 := by
  rw [fieldN, BitVec.extractLsb'_toNat, Nat.shiftRight_zero]

theorem toNat_fieldKk (w : Word) : (fieldKk w).toNat = w.toNat % 256 := by
  rw [fieldKk, BitVec.extractLsb'_toNat, Nat.shiftRight_zero]

theorem fieldN_lt (w : Word) : fieldN w < 16 := (w.extractLsb' 0 4).isLt

/-- In family 0x0 the low 12 bits are the whole word. -/
theorem fieldNnn_of_family0 {w : Word} (htop : fieldTop w = 0) : fieldNnn w = w := by
  have hw : w &&& 0xFFFF = fieldNnn w := and_FFFF_of_top_nnn htop rfl (BitVec.zero_or ..)
  exact hw.symm.trans BitVec.and_allOnes

theorem decodeFamily0_unknown_iff {w : Word} (htop : fieldTop w = 0) :
    (∃ w', decodeFamily0 w = .unknown w') ↔ w ≠ 0x00E0 ∧ w ≠ 0x00EE := by
  rw [decodeFamily0, fieldNnn_of_family0 htop]
  split
  · simp_all
  · split <;> simp_all

theorem decodeFamily8_unknown_iff (w : Word) :
    (∃ w', decodeFamily8 w = .unknown w') ↔ fieldN w ∈ [0x8, 0x9, 0xA, 0xB, 0xC, 0xD, 0xF] := by
  unfold decodeFamily8
  have hlt := fieldN_lt w
  generalize fieldN w = n at hlt
  interval_cases n <;> simp

theorem decodeFamilyE_unknown_iff (w : Word) :
    (∃ w', decodeFamilyE w = .unknown w') ↔ (fieldKk w).toNat ∉ [0x9E, 0xA1] := by
  unfold decodeFamilyE
  split <;> simp_all

theorem decodeFamilyF_unknown_iff (w : Word) :
    (∃ w', decodeFamilyF w = .unknown w') ↔
      (fieldKk w).toNat ∉ [0x07, 0x0A, 0x15, 0x18, 0x1E, 0x29, 0x33, 0x55, 0x65] := by
  unfold decodeFamilyF
  split <;> simp_all

theorem ite_fieldN_unknown_iff {w : Word} {i : Instr} :
    (∃ w', (if fieldN w = 0 then Decoded.instr i else .unknown w) = .unknown w') ↔ fieldN w ≠ 0 := by
  split <;> simp_all

/-- The decoder answers no instruction on exactly the words of the table of R99. The sixteen families stand in the order of
the top nibble. -/
theorem unknownByFamily_iff (w : Word) : UnknownByFamily w ↔ ∃ w', decode w = .unknown w' := by
  unfold UnknownByFamily decode
  rw [← fieldTop_eq_div, ← fieldN_eq_mod, ← toNat_fieldKk]
  have hlt := fieldTop_lt w
  generalize htop : fieldTop w = k at hlt
  interval_cases k
  · simp [decodeFamily0_unknown_iff htop]
  · simp
  · simp
  · simp
  · simp
  · simp [ite_fieldN_unknown_iff]
  · simp
  · simp
  · simp [decodeFamily8_unknown_iff w]
  · simp [ite_fieldN_unknown_iff]
  · simp
  · simp
  · simp
  · simp
  · simp [decodeFamilyE_unknown_iff w]
  · simp [decodeFamilyF_unknown_iff w]

/-- Settles O5: only a word that does not decode raises UnknownOpcode, since no execute phase does. -/
theorem unknownWordsFaultByFamily : Obligations.UnknownWordsFaultByFamily := by
  intro s hpc
  have hfetch := s.canFetch_iff.2 hpc
  rw [wordAtPc_eq_fetchWord, unknownByFamily_iff]
  cases hd : decode s.fetchWord with
  | unknown w => exact iff_of_true ⟨w, rfl⟩ (step_unknown hfetch hd)
  | instr i =>
    refine iff_of_false nofun fun h => ?_
    rw [step_fault_iff_stepFault, stepFault_instr hfetch hd] at h
    exact executeFault_ne_unknownOpcode i _ _ _ s h

end Sys2Proof.Claims
end

section
/-! PROOFS. What every instruction leaves unchanged (spec R21, R22, R36, R124). -/

namespace Sys2Proof.Claims

open Sys2Proof Sys2Proof.Machine

/-- Settles O12: the next state of each instruction is the state with its own writes made. -/
theorem instructionsWriteOnlyWhatTheMatrixAllows : Obligations.InstructionsWriteOnlyWhatTheMatrixAllows := by
  intro i s t h
  cases i with
  | ret =>
    obtain ⟨k, -, rfl⟩ := exec_ret_next h
    simp
  | call nnn =>
    obtain ⟨hsp, rfl⟩ := exec_call_next h
    simp
  | skp x =>
    obtain ⟨-, rfl⟩ := exec_skp_next h
    simp
  | sknp x =>
    obtain ⟨-, rfl⟩ := exec_sknp_next h
    simp
  | ldVxK x =>
    obtain ⟨-, rfl⟩ | ⟨k, -, rfl⟩ := exec_ldVxK_next h <;> simp
  | drw x y n =>
    obtain ⟨-, rfl⟩ := exec_drw_next h
    simp
  | ldBVx x =>
    obtain ⟨-, rfl⟩ := exec_ldBVx_next h
    simp
  | ldMiVx x =>
    obtain ⟨-, rfl⟩ := exec_ldMiVx_next h
    simp
  | ldVxMi x =>
    obtain ⟨-, rfl⟩ := exec_ldVxMi_next h
    simp
  | addVxVy | subVxVy | shrVx | subnVxVy | shlVx =>
    cases h
    simp [State.writeFlagged]
  | _ =>
    cases h
    simp

theorem eq_of_readV_writeV_ne {s : State} {x j : Reg} {b : Byte} (h : (s.writeV x b).readV j ≠ s.readV j) : j = x :=
  not_imp_comm.1 (s.readV_writeV_ne x j b) h

theorem eq_of_readV_writeFlagged_ne {s : State} {x j : Reg} {f : Bool} {b : Byte}
    (h : (s.writeFlagged x f b).readV j ≠ s.readV j) : j = x ∨ j = VF := by
  rw [State.readV_writeFlagged] at h
  by_contra hne
  obtain ⟨hx, hVF⟩ := not_or.1 hne
  rw [if_neg hx, if_neg hVF] at h
  exact h rfl

theorem le_of_readV_loadBlock_ne {s : State} {x j : Reg} (h : (s.loadBlock x).readV j ≠ s.readV j) : j ≤ x := by
  by_contra hjx
  exact h ((s.readV_loadBlock x j).trans (if_neg hjx))

/-- Settles O13: each instruction writes only the registers it names, and the flag. -/
theorem registersChangeOnlyAsNamed : Obligations.RegistersChangeOnlyAsNamed := by
  intro i s t j h hj
  cases i with
  | ret =>
    obtain ⟨k, -, rfl⟩ := exec_ret_next h
    exact absurd rfl hj
  | call nnn =>
    obtain ⟨hsp, rfl⟩ := exec_call_next h
    exact absurd rfl hj
  | skp x =>
    obtain ⟨-, rfl⟩ := exec_skp_next h
    exact absurd rfl hj
  | sknp x =>
    obtain ⟨-, rfl⟩ := exec_sknp_next h
    exact absurd rfl hj
  | ldVxK x =>
    obtain ⟨-, rfl⟩ | ⟨k, -, rfl⟩ := exec_ldVxK_next h
    · exact absurd rfl hj
    · exact .inl (eq_of_readV_writeV_ne hj)
  | drw x y n =>
    obtain ⟨-, rfl⟩ := exec_drw_next h
    exact .inr ⟨trivial, eq_of_readV_writeV_ne hj⟩
  | ldBVx x =>
    obtain ⟨-, rfl⟩ := exec_ldBVx_next h
    exact absurd rfl hj
  | ldMiVx x =>
    obtain ⟨-, rfl⟩ := exec_ldMiVx_next h
    exact absurd rfl hj
  | ldVxMi x =>
    obtain ⟨-, rfl⟩ := exec_ldVxMi_next h
    rw [State.readV_advance, State.readV_stepI] at hj
    exact .inl (le_of_readV_loadBlock_ne hj)
  | addVxVy x y | subVxVy x y | shrVx x y | subnVxVy x y | shlVx x y =>
    cases h
    exact (eq_of_readV_writeFlagged_ne hj).imp_right fun hVF => ⟨trivial, hVF⟩
  | addIVx x =>
    cases h
    exact .inr ⟨trivial, eq_of_readV_writeV_ne hj⟩
  | ldVxKk x | addVxKk x | ldVxVy x | orVxVy x | andVxVy x | xorVxVy x | rnd x | ldVxDt x =>
    cases h
    exact .inl (eq_of_readV_writeV_ne hj)
  | _ =>
    cases h
    exact absurd rfl hj

/-! ### Inputs that an instruction does not read

One change of the elements that only some instructions read or write: memory, the keys, the timers and the random input. -/

/-- What becomes of memory, the keys, the timers and the input of a step. -/
structure Change where
  mem : Memory → Memory := id
  key : BitVec 16 → BitVec 16 := id
  delay : Byte → Byte := id
  sound : Byte → Byte := id
  rnd : Option Byte → Option Byte := id

/-- The state with a change made. -/
def Change.apply (c : Change) (s : State) : State :=
  { s with
    mem := c.mem s.mem, key := c.key s.key, delayTimer := c.delay s.delayTimer, soundTimer := c.sound s.soundTimer
    rndIn := c.rnd s.rndIn }

/-- The outcome with a change made in its next state. -/
def Change.onResult (c : Change) : Result → Result
  | .next t => .next (c.apply t)
  | .fault f => .fault f
  | .refused r => .refused r

/-- The change keeps the elements the instruction reads or writes (R36, R130, R243). -/
def Change.Keeps (c : Change) : Instr → Prop
  | .rnd _ _ => c.rnd = id
  | .skp _ => c.key = id
  | .sknp _ => c.key = id
  | .ldVxK _ => c.key = id
  | .ldVxDt _ => c.delay = id
  | .ldDtVx _ => c.delay = id
  | .ldStVx _ => c.sound = id
  | .drw _ _ _ => c.mem = id
  | .ldBVx _ => c.mem = id
  | .ldMiVx _ => c.mem = id
  | .ldVxMi _ => c.mem = id
  | _ => True

theorem withAccess_apply (c : Change) (s : State) (n : Nat) {t t' : State} (ht : t' = c.apply t) :
    (c.apply s).withAccess n (.next t') = c.onResult (s.withAccess n (.next t)) := by
  have htest : (c.apply s).accessOutOfRange n = s.accessOutOfRange n := rfl
  rw [State.withAccess, State.withAccess, htest, ht]
  split <;> rfl

theorem withKeyIndex_apply (c : Change) (s : State) (x : Reg) (taken : Nat → Bool) :
    (c.apply s).withKeyIndex x (fun k => .next ((c.apply s).skipIf (taken k))) =
      c.onResult (s.withKeyIndex x fun k => .next (s.skipIf (taken k))) := by
  have hread : (c.apply s).readV x = s.readV x := rfl
  rw [State.withKeyIndex, State.withKeyIndex, hread]
  split <;> rfl

theorem execRet_apply (c : Change) (s : State) : execRet (c.apply s) = c.onResult (execRet s) := by
  by_cases hsp : s.sp.val = 0
  · rw [execRet, execRet, s.pop_empty hsp, (c.apply s).pop_empty hsp]
    rfl
  · rw [execRet, execRet, s.pop_some hsp, (c.apply s).pop_some hsp]
    rfl

theorem execCall_apply (c : Change) (nnn : Word) (s : State) :
    execCall nnn (c.apply s) = c.onResult (execCall nnn s) := by
  by_cases hsp : s.sp.val = 16
  · rw [execCall, execCall, s.push_full _ hsp, (c.apply s).push_full _ hsp]
    rfl
  · have hroom : s.sp.val < 16 := by omega
    rw [execCall, execCall, s.push_room _ hroom, (c.apply s).push_room _ hroom]
    rfl

theorem execLdVxK_apply {c : Change} (hkey : c.key = id) (x : Reg) (s : State) :
    execLdVxK x (c.apply s) = c.onResult (execLdVxK x s) := by
  have hleast : (c.apply s).leastKey = s.leastKey := by
    simp only [State.leastKey, State.keyDown, Change.apply, hkey, id]
  rw [execLdVxK, execLdVxK, hleast]
  cases s.leastKey <;> rfl

theorem loadBlock_apply {c : Change} (hmem : c.mem = id) (x : Reg) (s : State) :
    (c.apply s).loadBlock x = c.apply (s.loadBlock x) := by
  simp only [State.loadBlock, Change.apply, State.dataAddr, hmem, id]

theorem stepI_advance_apply (c : Change) (x : Reg) (s : State) :
    ((c.apply s).stepI x).advance = c.apply (s.stepI x).advance := rfl

theorem execLdVxMi_apply {c : Change} (hmem : c.mem = id) (x : Reg) (s : State) :
    execLdVxMi x (c.apply s) = c.onResult (execLdVxMi x s) := by
  refine withAccess_apply c s _ ?_
  rw [loadBlock_apply hmem, stepI_advance_apply]

/-- An instruction commutes with every change of what it neither reads nor writes. -/
theorem exec_apply {c : Change} {i : Instr} (hc : c.Keeps i) (s : State) :
    exec i (c.apply s) = c.onResult (exec i s) := by
  cases i with
  | ret => exact execRet_apply c s
  | call nnn => exact execCall_apply c nnn s
  | ldVxK x => exact execLdVxK_apply hc x s
  | skp x =>
    obtain ⟨mem, key, delay, sound, rnd⟩ := c
    obtain rfl : key = id := hc
    exact withKeyIndex_apply _ s x fun k => s.keyDown k
  | sknp x =>
    obtain ⟨mem, key, delay, sound, rnd⟩ := c
    obtain rfl : key = id := hc
    exact withKeyIndex_apply _ s x fun k => !s.keyDown k
  | ldVxMi x => exact execLdVxMi_apply hc x s
  | drw | ldBVx | ldMiVx =>
    obtain ⟨mem, key, delay, sound, rnd⟩ := c
    obtain rfl : mem = id := hc
    exact withAccess_apply _ s _ rfl
  | rnd =>
    obtain ⟨mem, key, delay, sound, rnd⟩ := c
    obtain rfl : rnd = id := hc
    rfl
  | ldVxDt | ldDtVx =>
    obtain ⟨mem, key, delay, sound, rnd⟩ := c
    obtain rfl : delay = id := hc
    rfl
  | ldStVx =>
    obtain ⟨mem, key, delay, sound, rnd⟩ := c
    obtain rfl : sound = id := hc
    rfl
  | _ => rfl

end Sys2Proof.Claims
end

section
/-! PROOFS. Who advances pc, and what a step reads and writes of its inputs and timers (spec R124, R130, R243). -/

namespace Sys2Proof.Claims

open Sys2Proof Sys2Proof.Machine

/-! ### The program counter -/

theorem exec_advances {i : Instr} {s t : State} (h : exec i s = .next t) (hi : ¬ ControlsPc i) : t.pc = s.pc + 2 := by
  cases i with
  | ret | jp | call | jpV0 | seVxKk | sneVxKk | seVxVy | sneVxVy | skp | sknp | ldVxK => exact absurd trivial hi
  | drw x y n =>
    obtain ⟨-, rfl⟩ := exec_drw_next h
    rfl
  | ldBVx x =>
    obtain ⟨-, rfl⟩ := exec_ldBVx_next h
    rfl
  | ldMiVx x =>
    obtain ⟨-, rfl⟩ := exec_ldMiVx_next h
    rfl
  | ldVxMi x =>
    obtain ⟨-, rfl⟩ := exec_ldVxMi_next h
    simp
  | _ =>
    cases h
    rfl

theorem exec_skip_next {i : Instr} {s t : State} (h : exec i s = .next t) (hi : IsSkip i) :
    ∃ taken, t = s.skipIf taken := by
  cases i with
  | seVxKk | sneVxKk | seVxVy | sneVxVy => exact ⟨_, (Host.Outcome.next.inj h).symm⟩
  | skp x => exact ⟨_, (exec_skp_next h).2⟩
  | sknp x => exact ⟨_, (exec_sknp_next h).2⟩
  | _ => exact hi.elim

theorem onResult_mem (m : Memory) (r : Result) : Change.onResult { mem := fun _ => m } r = withMem m r := by
  cases r <;> rfl

theorem keeps_of_isSkip {c : Change} {i : Instr} (hi : IsSkip i) (hkey : c.key = id) : c.Keeps i := by
  cases i with
  | seVxKk | sneVxKk | seVxVy | sneVxVy => trivial
  | skp | sknp => exact hkey
  | _ => exact hi.elim

/-- Settles O14: a skip is one write of pc, and it commutes with every change of memory. -/
theorem pcAdvancesByTwoAndSkipsByFour : Obligations.PcAdvancesByTwoAndSkipsByFour := by
  intro i s t h
  refine ⟨exec_advances h, fun hi => ⟨?_, fun m => ?_⟩⟩
  · obtain ⟨taken, rfl⟩ := exec_skip_next h hi
    cases taken
    · exact .inr rfl
    · exact .inl rfl
  · rw [← onResult_mem]
    exact exec_apply (c := { mem := fun _ => m }) (keeps_of_isSkip hi rfl) s

/-! ### The inputs of a step -/

theorem executePhase_outOfRange {s : State} (hpc : s.canFetch = false) : executePhase s = s.raise .pcOutOfRange := by
  simp [executePhase, hpc]

theorem executePhase_unknown {s : State} {w : Word} (hpc : s.canFetch = true) (hw : decode s.fetchWord = .unknown w) :
    executePhase s = (s.latchOpcode s.fetchWord).raise .unknownOpcode := by
  simp [executePhase, dispatchWord, hpc, hw]

theorem executePhase_instr {s : State} {i : Instr} (hpc : s.canFetch = true) (hi : decode s.fetchWord = .instr i) :
    executePhase s = exec i (s.latchOpcode s.fetchWord) := by
  simp [executePhase, dispatchWord, hpc, hi]

theorem executePhase_eq_next {s t : State} (h : executePhase s = .next t) :
    ∃ i, fetches s i ∧ exec i (s.latchOpcode s.fetchWord) = .next t := by
  cases hpc : s.canFetch with
  | false =>
    rw [executePhase_outOfRange hpc] at h
    exact absurd h (s.raise_ne_next _ t)
  | true =>
    cases hd : decode s.fetchWord with
    | unknown w =>
      rw [executePhase_unknown hpc hd] at h
      exact absurd h (State.raise_ne_next _ _ t)
    | instr i => exact ⟨i, hd, (executePhase_instr hpc hd).symm.trans h⟩

theorem fetches_unique {s : State} {i j : Instr} (hi : fetches s i) (hj : fetches s j) : i = j :=
  Decoded.instr.inj (hi.symm.trans hj)

/-- A step's phases up to the tick commute with a change that keeps memory and what the fetched instruction reads. -/
theorem executePhase_apply {c : Change} {s : State} (hmem : c.mem = id) (hc : ∀ i, fetches s i → c.Keeps i) :
    executePhase (c.apply s) = c.onResult (executePhase s) := by
  obtain ⟨mem, key, delay, sound, rnd⟩ := c
  obtain rfl : mem = id := hmem
  generalize hchange : Change.mk id key delay sound rnd = c at hc ⊢
  have hpc' : (c.apply s).canFetch = s.canFetch := by rw [← hchange]; rfl
  have hfetch : (c.apply s).fetchWord = s.fetchWord := by rw [← hchange]; rfl
  cases hpc : s.canFetch with
  | false =>
    rw [executePhase_outOfRange hpc, executePhase_outOfRange (hpc'.trans hpc)]
    rfl
  | true =>
    cases hd : decode s.fetchWord with
    | unknown w =>
      rw [executePhase_unknown hpc hd, executePhase_unknown (hpc'.trans hpc) (hfetch ▸ hd), hfetch]
      rfl
    | instr i =>
      rw [executePhase_instr hpc hd, executePhase_instr (hpc'.trans hpc) (hfetch ▸ hd), hfetch]
      exact exec_apply (hc i hd) (s.latchOpcode s.fetchWord)

/-- The end of the input uses up the random byte, whichever it was. -/
theorem closeStep_onResult_rnd (f : Option Byte → Option Byte) (r : Result) :
    closeStep (Change.onResult { rnd := f } r) = closeStep r := by
  cases r <;> rfl

theorem closeStep_onResult_key (k : BitVec 16) (r : Result) :
    closeStep (Change.onResult { key := fun _ => k } r) = withKeys k (closeStep r) := by
  cases r <;> rfl

/-- Without a `Cxkk` a presented byte makes no difference. -/
theorem step_present {s : State} (r : Byte) (h : ∀ x kk, ¬ fetches s (.rnd x kk)) : step (s.present r) = step s := by
  have hkeeps : ∀ i, fetches s i → Change.Keeps { rnd := fun _ => some r } i := by
    intro i hi
    cases i with
    | rnd x kk => exact absurd hi (h x kk)
    | _ => trivial
  exact (congrArg closeStep (executePhase_apply rfl hkeeps)).trans (closeStep_onResult_rnd _ _)

/-- Settles O15: every instruction but the readers named commutes with the change of the input. -/
theorem stepReadsItsInputsOnlyWhereStated : Obligations.StepReadsItsInputsOnlyWhereStated := by
  refine ⟨fun s r r' h => (step_present r h).trans (step_present r' h).symm, fun s k h => ?_⟩
  have hkeeps : ∀ i, fetches s i → Change.Keeps { key := fun _ => k } i := by
    intro i hi
    cases i with
    | skp x => exact absurd hi (h x).1
    | sknp x => exact absurd hi (h x).2.1
    | ldVxK x => exact absurd hi (h x).2.2
    | _ => trivial
  exact (congrArg closeStep (executePhase_apply rfl hkeeps)).trans (closeStep_onResult_key k _)

/-! ### The timers -/

theorem onResult_timers (d e : Byte) (r : Result) :
    Change.onResult { delay := fun _ => d, sound := fun _ => e } r = withTimers d e r := by
  cases r <;> rfl

/-- Settles O16: every instruction but the three commutes with a change of the timers, and all but the writer of the sound
timer with a change of that. -/
theorem onlyThreeInstructionsTouchATimer : Obligations.OnlyThreeInstructionsTouchATimer := by
  refine ⟨fun i s d e hi => ?_, fun i s t e h => ?_⟩
  · have hkeeps : Change.Keeps { delay := fun _ => d, sound := fun _ => e } i := by
      cases i with
      | ldVxDt x => exact absurd rfl (hi x).1
      | ldDtVx x => exact absurd rfl (hi x).2.1
      | ldStVx x => exact absurd rfl (hi x).2.2
      | _ => trivial
    rw [← onResult_timers]
    exact exec_apply hkeeps s
  · by_cases hi : ∃ x, i = .ldStVx x
    · obtain ⟨x, rfl⟩ := hi
      cases h
      exact ⟨_, rfl, rfl⟩
    · have hkeeps : Change.Keeps { sound := fun _ => e } i := by
        cases i with
        | ldStVx x => exact absurd ⟨x, rfl⟩ hi
        | _ => trivial
      have hexec := exec_apply hkeeps s
      rw [h] at hexec
      exact ⟨_, hexec, rfl⟩

end Sys2Proof.Claims
end

section
/-! PROOFS. The timers of a step, a run that lowers them and the sound edges (spec R129, R132, R241, R270, R273). -/

namespace Sys2Proof.Claims

open Sys2Proof Sys2Proof.Machine

/-! ### The timers after the execute phase -/

theorem executePhase_delayTimer_set {s t : State} {x : Reg} (h : executePhase s = .next t)
    (hx : fetches s (.ldDtVx x)) : t.delayTimer = s.readV x := by
  obtain ⟨i, hi, hexec⟩ := executePhase_eq_next h
  obtain rfl := fetches_unique hx hi
  cases hexec
  rfl

theorem executePhase_delayTimer_run {s t : State} (h : executePhase s = .next t)
    (hx : ∀ x, ¬ fetches s (.ldDtVx x)) : t.delayTimer = s.delayTimer := by
  obtain ⟨i, hi, hexec⟩ := executePhase_eq_next h
  obtain ⟨-, -, -, -, -, -, hdelay, -, -⟩ := instructionsWriteOnlyWhatTheMatrixAllows i _ t hexec
  exact not_imp_comm.1 hdelay fun ⟨x, hi'⟩ => hx x (hi' ▸ hi)

theorem executePhase_soundTimer_set {s t : State} {x : Reg} (h : executePhase s = .next t)
    (hx : fetches s (.ldStVx x)) : t.soundTimer = s.readV x := by
  obtain ⟨i, hi, hexec⟩ := executePhase_eq_next h
  obtain rfl := fetches_unique hx hi
  cases hexec
  rfl

theorem executePhase_soundTimer_run {s t : State} (h : executePhase s = .next t)
    (hx : ∀ x, ¬ fetches s (.ldStVx x)) : t.soundTimer = s.soundTimer := by
  obtain ⟨i, hi, hexec⟩ := executePhase_eq_next h
  obtain ⟨-, -, -, -, -, -, -, hsound, -⟩ := instructionsWriteOnlyWhatTheMatrixAllows i _ t hexec
  exact not_imp_comm.1 hsound fun ⟨x, hi'⟩ => hx x (hi' ▸ hi)

theorem step_eq_next_iff_executePhase (s u : State) :
    step s = .next u ↔ ∃ t, executePhase s = .next t ∧ u = t.tick.endInput := closeStep_eq_next _ u

/-! ### The tick -/

theorem toNat_tick_delayTimer (t : State) : t.tick.endInput.delayTimer.toNat = t.delayTimer.toNat - 1 :=
  tickTimer_toNat _

theorem toNat_tick_soundTimer (t : State) : t.tick.endInput.soundTimer.toNat = t.soundTimer.toNat - 1 :=
  tickTimer_toNat _

theorem step_delayTimer_set {s u : State} {x : Reg} (h : step s = .next u) (hx : fetches s (.ldDtVx x)) :
    u.delayTimer.toNat = val s x - 1 := by
  obtain ⟨t, ht, rfl⟩ := (step_eq_next_iff_executePhase s u).1 h
  rw [toNat_tick_delayTimer, executePhase_delayTimer_set ht hx, val]

theorem step_delayTimer_run {s u : State} (h : step s = .next u) (hx : ∀ x, ¬ fetches s (.ldDtVx x)) :
    u.delayTimer.toNat = s.delayTimer.toNat - 1 := by
  obtain ⟨t, ht, rfl⟩ := (step_eq_next_iff_executePhase s u).1 h
  rw [toNat_tick_delayTimer, executePhase_delayTimer_run ht hx]

theorem step_soundTimer_set {s u : State} {x : Reg} (h : step s = .next u) (hx : fetches s (.ldStVx x)) :
    u.soundTimer.toNat = val s x - 1 := by
  obtain ⟨t, ht, rfl⟩ := (step_eq_next_iff_executePhase s u).1 h
  rw [toNat_tick_soundTimer, executePhase_soundTimer_set ht hx, val]

theorem step_soundTimer_run {s u : State} (h : step s = .next u) (hx : ∀ x, ¬ fetches s (.ldStVx x)) :
    u.soundTimer.toNat = s.soundTimer.toNat - 1 := by
  obtain ⟨t, ht, rfl⟩ := (step_eq_next_iff_executePhase s u).1 h
  rw [toNat_tick_soundTimer, executePhase_soundTimer_run ht hx]

theorem HostFrame.timers_eq {s t : State} (h : HostFrame s t) :
    t.delayTimer = s.delayTimer ∧ t.soundTimer = s.soundTimer := by
  obtain ⟨mem, key, drawFlag, rfl⟩ := h
  exact ⟨rfl, rfl⟩

/-- Settles O17: the tick closes the execute phase of a successful step, and neither a fault nor the frame of the other
operations holds a timer. -/
theorem timersTickOncePerSuccessfulStep : Obligations.TimersTickOncePerSuccessfulStep := by
  refine ⟨fun s u h => ?_, fun s f _ => ⟨rfl, rfl⟩, fun op s hinit hstep => (hostOp_frame s hinit hstep).timers_eq⟩
  exact ⟨fun x hx => step_delayTimer_set h hx, step_delayTimer_run h, fun x hx => step_soundTimer_set h hx,
    step_soundTimer_run h⟩

/-- Settles O18: each quiet step takes one from the delay timer. -/
theorem delayTimerRunsDown : Obligations.DelayTimerRunsDown := by
  intro j s t h
  induction h with
  | refl s => rfl
  | cons k s t u hquiet hstep _ ih =>
    rw [ih, step_delayTimer_run hstep hquiet]
    omega

/-! ### A parked program -/

theorem fitsNnn_of_le {a : Word} (h : a.toNat ≤ 0xFFE) : fitsNnn a = true := decide_eq_true (by omega)

/-- The step of a parked program (R132). -/
theorem step_parked {s : State} {a : Word} (h : s.parkedAt a) :
    step s = .next (ticked { s with opcode := 0x1000 ||| a }) := by
  obtain ⟨ha, hpc, hword⟩ := h
  have hfetch : s.fetchWord = 0x1000 ||| a := by rw [State.fetchWord, hpc, hword]
  have hdecode : decode s.fetchWord = .instr (.jp a) := by
    rw [hfetch]
    exact decode_encode (i := .jp a) (fitsNnn_of_le ha)
  rw [step_instr (s.canFetch_iff.2 (hpc ▸ ha)) hdecode, hfetch, ticked_eq, ← hpc]
  rfl

theorem parkedAt_ticked {s : State} {a w : Word} (h : s.parkedAt a) : (ticked { s with opcode := w }).parkedAt a := h

/-- The state after `n` steps of a program parked at `a` (R132). -/
def parkedAfter (s : State) (a : Word) (n : Nat) : State :=
  { s with
    delayTimer := BitVec.ofNat 8 (s.delayTimer.toNat - n)
    soundTimer := BitVec.ofNat 8 (s.soundTimer.toNat - n)
    opcode := 0x1000 ||| a
    rndIn := none
    rndIndex := s.rndIndex + n }

theorem toNat_ofNat_sub (t : Byte) (n : Nat) : (BitVec.ofNat 8 (t.toNat - n)).toNat = t.toNat - n := by
  rw [BitVec.toNat_ofNat]
  omega

theorem parkedAfter_ticked (s : State) (a : Word) (n : Nat) :
    parkedAfter (ticked { s with opcode := 0x1000 ||| a }) a n = parkedAfter s a (n + 1) := by
  simp only [parkedAfter, ticked, toNat_ofNat_sub, Nat.sub_sub, Nat.add_assoc, Nat.add_comm 1 n]

theorem stepsTo_parkedAfter (k : Nat) : ∀ {s : State} {a : Word}, s.parkedAt a →
    StepsTo (k + 1) s (parkedAfter s a (k + 1)) := by
  induction k with
  | zero =>
    intro s a h
    exact .cons 0 s _ _ (step_parked h) (.refl _)
  | succ k ih =>
    intro s a h
    rw [← parkedAfter_ticked]
    exact .cons (k + 1) s _ _ (step_parked h) (ih (parkedAt_ticked h))

/-- Settles O19: a parked step leaves the program parked, so the steps add up. -/
theorem parkedProgramStaysParked : Obligations.ParkedProgramStaysParked := by
  intro k s a h
  exact ⟨parkedAfter s a (k + 1), stepsTo_parkedAfter k h, h, rfl⟩

/-! ### The sound edges -/

theorem beepStart_iff (s : State) :
    s.beepStart = true ↔ ∃ t, executePhase s = .next t ∧ s.soundTimer = 0 ∧ t.soundTimer ≠ 0 := by
  unfold State.beepStart
  cases executePhase s <;> simp

theorem beepStop_iff (s : State) :
    s.beepStop = true ↔ ∃ t, executePhase s = .next t ∧
      ((t.soundTimer ≠ 0 ∧ t.tick.soundTimer = 0) ∨ (s.soundTimer ≠ 0 ∧ t.soundTimer = 0)) := by
  unfold State.beepStop
  cases executePhase s <;> simp

/-- The two sources of the sound timer between the execute phase and the tick, the `st1` of R273. -/
theorem executePhase_soundTimer_source {s t : State} (h : executePhase s = .next t) (st1 : Byte) :
    ((∃ x, fetches s (.ldStVx x) ∧ st1 = s.readV x) ∨ ((∀ x, ¬ fetches s (.ldStVx x)) ∧ st1 = s.soundTimer)) ↔
      st1 = t.soundTimer := by
  by_cases hx : ∃ x, fetches s (.ldStVx x)
  · obtain ⟨x, hx⟩ := hx
    have hset := executePhase_soundTimer_set h hx
    refine ⟨?_, fun hst1 => .inl ⟨x, hx, hst1.trans hset⟩⟩
    rintro (⟨x', hx', rfl⟩ | ⟨hrun, -⟩)
    · exact (executePhase_soundTimer_set h hx').symm
    · exact absurd hx (hrun x)
  · rw [not_exists] at hx
    have hrun := executePhase_soundTimer_run h hx
    refine ⟨?_, fun hst1 => .inr ⟨hx, hst1.trans hrun⟩⟩
    rintro (⟨x', hx', -⟩ | ⟨-, rfl⟩)
    · exact absurd hx' (hx x')
    · exact hrun.symm

/-- Settles O20: the edges are read off the execute phase, whose sound timer is V[x] after an Fx18 and else what it was. -/
theorem soundEdgesOfAStep : Obligations.SoundEdgesOfAStep := by
  intro s
  refine ⟨(beepStart_iff s).trans ⟨?_, ?_⟩, (beepStop_iff s).trans ⟨?_, ?_⟩⟩
  · rintro ⟨t, ht, h0, h1⟩
    have hu := (step_eq_next_iff_executePhase s _).2 ⟨t, ht, rfl⟩
    obtain ⟨x, hx, hset⟩ | ⟨-, hrun⟩ := (executePhase_soundTimer_source ht _).2 rfl
    · exact ⟨h0, ⟨_, hu⟩, x, hx, hset ▸ h1⟩
    · exact absurd (hrun.trans h0) h1
  · rintro ⟨h0, ⟨u, hu⟩, x, hx, hval⟩
    obtain ⟨t, ht, -⟩ := (step_eq_next_iff_executePhase s u).1 hu
    exact ⟨t, ht, h0, executePhase_soundTimer_set ht hx ▸ hval⟩
  · rintro ⟨t, ht, hedge⟩
    have hu := (step_eq_next_iff_executePhase s _).2 ⟨t, ht, rfl⟩
    exact ⟨_, hu, t.soundTimer, (executePhase_soundTimer_source ht _).2 rfl, hedge⟩
  · rintro ⟨u, hu, st1, hst1, hedge⟩
    obtain ⟨t, ht, rfl⟩ := (step_eq_next_iff_executePhase s u).1 hu
    obtain rfl := (executePhase_soundTimer_source ht st1).1 hst1
    exact ⟨t, ht, hedge⟩

end Sys2Proof.Claims
end

section
/-! PROOFS. The arithmetic instructions that write the flag, and the random byte (spec R146 to R152). -/

namespace Sys2Proof.Claims

open Sys2Proof Sys2Proof.Machine

theorem val_writeFlagged (s : State) (x j : Reg) (f : Bool) (b : Byte) :
    val (s.writeFlagged x f b) j = if j = x then b.toNat else if j = VF then (if f then 1 else 0) else val s j := by
  simp only [val, State.readV_writeFlagged, apply_ite BitVec.toNat, flagByte_toNat]

/-- An instruction whose whole meaning is the flag, then the result, then the move to the next instruction (R126). -/
theorem setsRegs_of_writeFlagged {i : Instr} {s : State} {x : Reg} {f : Bool} {b : Byte} {n flag : Nat}
    (hexec : exec i s = .next (s.writeFlagged x f b)) (hb : b.toNat = n) (hf : (if f then 1 else 0) = flag) :
    SetsRegs i s (fun j => if j = x then n else if j = VF then flag else val s j) (s.pc + 2) := by
  refine ⟨s.writeFlagged x f b, hexec, fun j => ?_, rfl⟩
  rw [val_writeFlagged, hb, hf]

theorem toNat_sub_byte (a b : Byte) : (a - b).toNat = (a.toNat + 256 - b.toNat) % 256 := by
  rw [BitVec.toNat_sub]
  omega

theorem toNat_shl_byte (a : Byte) : (a <<< 1).toNat = a.toNat * 2 % 256 := by
  rw [BitVec.toNat_shiftLeft, Nat.shiftLeft_eq, pow_one]

theorem carryFlag_value (a b : Byte) : (if carryFlag a b then 1 else 0) = if a.toNat + b.toNat > 255 then 1 else 0 :=
  if_congr decide_eq_true_iff rfl rfl

theorem notBorrowFlag_value (a b : Byte) : (if notBorrowFlag a b then 1 else 0) = if a.toNat > b.toNat then 1 else 0 :=
  if_congr decide_eq_true_iff rfl rfl

theorem shiftedOutRight_value (a : Byte) : (if shiftedOutRight a then 1 else 0) = a.toNat % 2 := by
  rw [shiftedOutRight, BitVec.getLsbD, Nat.testBit_zero]
  simp only [decide_eq_true_eq]
  split <;> omega

theorem shiftedOutLeft_value (a : Byte) : (if shiftedOutLeft a then 1 else 0) = a.toNat / 128 := by
  rw [shiftedOutLeft, BitVec.getLsbD, Nat.testBit_eq_decide_div_mod_eq]
  simp only [decide_eq_true_eq]
  split <;> omega

/-- Settles O28: the byte sum is the sum modulo 256, and its flag is the carry. -/
theorem addSetsCarry : Obligations.AddSetsCarry := by
  intro s x y
  exact setsRegs_of_writeFlagged (b := s.readV x + s.readV y) rfl (BitVec.toNat_add _ _) (carryFlag_value _ _)

/-- Settles O29: the two differ only in which operand is the minuend. -/
theorem subtractionsSetNotBorrow : Obligations.SubtractionsSetNotBorrow := by
  intro s x y
  exact ⟨setsRegs_of_writeFlagged (b := s.readV x - s.readV y) rfl (toNat_sub_byte _ _) (notBorrowFlag_value _ _),
    setsRegs_of_writeFlagged (b := s.readV y - s.readV x) rfl (toNat_sub_byte _ _) (notBorrowFlag_value _ _)⟩

/-- Settles O30: a shift halves or doubles the value, and its flag is the bit that leaves. -/
theorem shiftsSetTheBitShiftedOut : Obligations.ShiftsSetTheBitShiftedOut := by
  intro s x y
  exact ⟨setsRegs_of_writeFlagged (b := s.readV x >>> 1) rfl (Nat.shiftRight_eq_div_pow _ 1) (shiftedOutRight_value _),
    setsRegs_of_writeFlagged (b := s.readV x <<< 1) rfl (toNat_shl_byte _) (shiftedOutLeft_value _)⟩

/-- Settles O31: the instruction writes the step's byte masked, and a presented byte is the step's. -/
theorem randomByteIsMasked : Obligations.RandomByteIsMasked := by
  intro s x kk r
  exact ⟨setsRegs_of_writeV_advance (s := s.present r) (b := r &&& kk) rfl (BitVec.toNat_and _ _),
    setsRegs_of_writeV_advance (b := s.rndByte &&& kk) rfl (BitVec.toNat_and _ _)⟩

end Sys2Proof.Claims
end

section
/-! PROOFS. The computed jump, the call and the return (spec R170, R172, R177). -/

namespace Sys2Proof.Claims

open Sys2Proof Sys2Proof.Machine

/-- Settles O33: a 12-bit nnn plus a byte does not pass 16 bits. -/
theorem computedJumpAddsV0 : Obligations.ComputedJumpAddsV0 := by
  intro s nnn hnnn
  exact ⟨(s.readV V0).setWidth 16 + nnn, toNat_setWidth_add hnnn, rfl⟩

theorem exec_call_room {s : State} (nnn : Word) (h : s.sp.val < 16) :
    exec (.call nnn) s =
      .next { s with stack := s.stack.set s.sp.val (s.pc + 2) h, sp := ⟨s.sp.val + 1, by omega⟩, pc := nnn } := by
  change execCall nnn s = _
  rw [execCall, s.push_room _ h]
  rfl

theorem exec_ret_nonempty {s : State} {k : Fin 16} (h : s.sp.val = k.val + 1) :
    exec .ret s = .next { s with sp := k.castSucc, pc := s.stack.get k } := by
  have hnext : ∃ t, exec .ret s = .next t := by
    change ∃ t, execRet s = .next t
    rw [execRet, s.pop_some (by omega)]
    exact ⟨_, rfl⟩
  obtain ⟨t, ht⟩ := hnext
  obtain ⟨k', hk', rfl⟩ := exec_ret_next ht
  obtain rfl : k' = k := Fin.ext (by omega)
  exact ht

theorem get_stack_set (s : State) (w : Word) (h : s.sp.val < 16) (k : Fin 16) :
    (s.stack.set s.sp.val w h).get k = if k.val = s.sp.val then w else s.stack.get k := by
  change (s.stack.set s.sp.val w h)[k.val] = _
  rw [Vector.getElem_set]
  exact if_congr eq_comm rfl rfl

/-- Settles O34: the push when there is room, the fault when there is none. -/
theorem callPushesTheReturnAddress : Obligations.CallPushesTheReturnAddress := by
  intro s nnn
  refine ⟨fun hroom => ⟨_, exec_call_room nnn hroom, rfl, rfl, get_stack_set s _ hroom, rfl⟩, fun hfull => ?_⟩
  exact (exec_call_fault s nnn _).2 ⟨hfull, rfl⟩

/-- Settles O35: the pop of a stack that holds a slot, the fault of an empty one. -/
theorem returnPopsThePushedAddress : Obligations.ReturnPopsThePushedAddress := by
  intro s
  exact ⟨fun k hk => exec_ret_nonempty hk, fun hempty => (exec_ret_fault s _).2 ⟨hempty, rfl⟩⟩

/-- Settles O36: the return reads the slot the call wrote. -/
theorem callThenReturnComesBack : Obligations.CallThenReturnComesBack := by
  intro s nnn hroom
  refine ⟨_, exec_call_room nnn hroom, fun q hstack hsp => ?_⟩
  have hq : q.sp.val = (⟨s.sp.val, hroom⟩ : Fin 16).val + 1 := congrArg Fin.val hsp
  refine ⟨_, exec_ret_nonempty hq, ?_, rfl⟩
  change q.stack.get _ = _
  rw [hstack]
  exact (get_stack_set s _ hroom _).trans (if_pos rfl)

end Sys2Proof.Claims
end

section
/-! PROOFS. The index register and the memory transfers (spec R191 to R195, R73). -/

namespace Sys2Proof.Claims

open Sys2Proof Sys2Proof.Machine

/-! ### The index register -/

/-- Settles O39: five times a byte fits 16 bits. -/
theorem fontAddressIsLoaded : Obligations.FontAddressIsLoaded := by
  intro s x
  refine ⟨BitVec.ofNat 16 (val s x * 5), ?_, rfl⟩
  have : val s x < 256 := (s.readV x).isLt
  rw [BitVec.toNat_ofNat]
  omega

theorem toNat_add_setWidth (w : Word) (b : Byte) : (w + b.setWidth 16).toNat = (w.toNat + b.toNat) % 65536 := by
  rw [BitVec.toNat_add, BitVec.toNat_setWidth]
  omega

/-- Settles O40: the flag is the one write of a register, and the addend was read before it. -/
theorem addToIndexSetsTheRangeFlag : Obligations.AddToIndexSetsTheRangeFlag := by
  intro s x
  refine ⟨_, rfl, toNat_add_setWidth _ _, fun j => ?_, rfl⟩
  change val (s.writeV VF (flagByte (indexRangeFlag s.I (s.readV x)))) j = _
  rw [val_writeV, flagByte_toNat]
  exact if_congr Iff.rfl (if_congr decide_eq_true_iff rfl rfl) rfl

theorem toNat_stepI (s : State) (x : Reg) : (s.stepI x).I.toNat = (s.I.toNat + x.val + 1) % 65536 := by
  rw [State.stepI_I, BitVec.toNat_add, BitVec.toNat_ofNat]
  omega

/-! ### The transfers whose access is inside memory -/

theorem exec_ldBVx_inside {s : State} (x : Reg) (h : s.dataAddr 2 ≤ 0xFFF) :
    exec (.ldBVx x) s = .next (s.storeAtI (decimalDigits (s.readV x))).advance :=
  s.withAccess_inside 3 _ fun _ => Nat.succ_le_succ h

theorem exec_ldMiVx_inside {s : State} {x : Reg} (h : s.dataAddr x.val ≤ 0xFFF) :
    exec (.ldMiVx x) s = .next ((s.storeAtI (s.regBlock x)).stepI x).advance :=
  s.withAccess_inside (x.val + 1) _ fun _ => Nat.succ_le_succ h

theorem exec_ldVxMi_inside {s : State} {x : Reg} (h : s.dataAddr x.val ≤ 0xFFF) :
    exec (.ldVxMi x) s = .next ((s.loadBlock x).stepI x).advance :=
  s.withAccess_inside (x.val + 1) _ fun _ => Nat.succ_le_succ h

/-- A block stored at I is read back, in a canonical memory. -/
theorem read_storeAtI_inside {s : State} {bytes : List Byte} {k : Nat} (hwf : s.mem.wf = true)
    (hin : s.I.toNat + bytes.length ≤ 0x1000) (hk : k < bytes.length) :
    (s.storeAtI bytes).mem.read (s.dataAddr k) = bytes.getD k 0 :=
  Memory.read_writeBytes_inside bytes s.mem s.I.toNat k hwf hin hk

theorem read_storeAtI_outside {s : State} {bytes : List Byte} {a : Nat}
    (h : a < s.dataAddr 0 ∨ s.dataAddr bytes.length ≤ a) : (s.storeAtI bytes).mem.read a = s.mem.read a :=
  Memory.read_writeBytes_outside bytes s.mem (s.dataAddr 0) a h

/-- The three digits of Vx as read back after `Fx33` (R193). -/
theorem read_digit {s : State} (x : Reg) {k : Nat} (hwf : s.mem.wf = true) (hin : s.dataAddr 2 ≤ 0xFFF) (hk : k < 3) :
    ((s.storeAtI (decimalDigits (s.readV x))).mem.read (s.dataAddr k)).toNat =
      [val s x / 100, val s x / 10 % 10, val s x % 10].getD k 0 := by
  have hend : s.I.toNat + (decimalDigits (s.readV x)).length ≤ 0x1000 := Nat.succ_le_succ hin
  rw [read_storeAtI_inside hwf hend hk, val, ← decimalDigits_toNat]
  exact (List.getD_map _ 0 BitVec.toNat).symm

theorem read_register {s : State} {x j : Reg} (hwf : s.mem.wf = true) (hin : s.dataAddr x.val ≤ 0xFFF) (hj : j ≤ x) :
    (s.storeAtI (s.regBlock x)).mem.read (s.dataAddr j.val) = s.readV j := by
  have hlen := s.regBlock_length x
  rw [read_storeAtI_inside hwf (hlen ▸ Nat.succ_le_succ hin) (hlen ▸ Nat.lt_succ_of_le hj), s.regBlock_getD x j hj]

/-- Settles O41: the three digits are a block stored at I. -/
theorem decimalDigitsAreStored : Obligations.DecimalDigitsAreStored := by
  intro s x
  refine ⟨fun hin => ⟨_, exec_ldBVx_inside x hin, fun hwf => ?_, fun a ha => read_storeAtI_outside ha, rfl⟩,
    fun hout => (exec_ldBVx_fault s x _).2 ⟨hout, rfl⟩⟩
  exact ⟨read_digit x hwf hin (by decide), read_digit x hwf hin (by decide), read_digit x hwf hin (by decide)⟩

/-- Settles O42: the registers are a block stored at I. -/
theorem registerBlockIsStored : Obligations.RegisterBlockIsStored := by
  intro s x
  refine ⟨fun hin => ⟨_, exec_ldMiVx_inside hin, toNat_stepI _ x, fun hwf j hj => read_register hwf hin hj,
    fun a ha => ?_, rfl⟩, fun hout => (exec_ldMiVx_fault s x _).2 ⟨hout, rfl⟩⟩
  refine read_storeAtI_outside ?_
  rwa [s.regBlock_length]

theorem loadBlock_frame (s : State) (x : Reg) : s.loadBlock x = { s with V := (s.loadBlock x).V } := rfl

theorem stepI_advance_frame {s t : State} (x : Reg) (h : t = { s with V := t.V }) :
    (t.stepI x).advance = { s with V := t.V, I := (t.stepI x).I, pc := s.pc + 2 } := by
  rw [h]
  rfl

/-- The registers after `Fx65` (R195). -/
theorem readV_loaded (s : State) (x j : Reg) :
    ((s.loadBlock x).stepI x).advance.readV j = if j ≤ x then s.mem.read (s.dataAddr j.val) else s.readV j := by
  rw [State.readV_advance, State.readV_stepI, State.readV_loadBlock]

theorem toNat_I_loaded (s : State) (x : Reg) :
    ((s.loadBlock x).stepI x).advance.I.toNat = (s.I.toNat + x.val + 1) % 65536 := by
  rw [State.advance_I, toNat_stepI, State.loadBlock_I]

/-- Settles O43: the load writes the registers up to Vx alone. -/
theorem registerBlockIsLoaded : Obligations.RegisterBlockIsLoaded := by
  intro s x
  refine ⟨fun hin => ⟨_, exec_ldVxMi_inside hin, toNat_I_loaded s x, readV_loaded s x,
    stepI_advance_frame x (loadBlock_frame s x)⟩, fun hout => (exec_ldVxMi_fault s x _).2 ⟨hout, rfl⟩⟩

/-- Settles O44: the load reads at each address what the store put there. -/
theorem storeThenLoadRestoresTheBlock : Obligations.StoreThenLoadRestoresTheBlock := by
  intro s t q x hwf ht hmem hI
  obtain ⟨hend, rfl⟩ := exec_ldMiVx_next ht
  have hin : s.dataAddr x.val ≤ 0xFFF := Nat.le_of_succ_le_succ hend
  have haddr (k : Nat) : q.dataAddr k = s.dataAddr k := by rw [State.dataAddr, State.dataAddr, hI]
  refine ⟨_, exec_ldVxMi_inside ((haddr x.val).trans_le hin), fun j hj => ?_⟩
  rw [readV_loaded, if_pos hj, hmem, haddr]
  exact read_register hwf hin hj

/-- Settles O25: the fetch reads the two stored bytes, and the tick touches neither memory nor pc. -/
theorem storeIsSeenByTheNextFetch : Obligations.StoreIsSeenByTheNextFetch := by
  intro s u x a b hwf hi hu hb hbx hpc
  obtain ⟨t, ht, rfl⟩ := (step_eq_next_iff_executePhase s u).1 hu
  obtain ⟨i, hi', hexec⟩ := executePhase_eq_next ht
  obtain rfl := fetches_unique hi hi'
  obtain ⟨hend, rfl⟩ := exec_ldMiVx_next hexec
  have hin : s.dataAddr x.val ≤ 0xFFF := Nat.le_of_succ_le_succ hend
  have hax : a.val ≤ x.val := Nat.le_of_succ_le (hb.symm.trans_le hbx)
  have hnext : s.dataAddr a.val + 1 = s.dataAddr b.val := by rw [State.dataAddr, State.dataAddr, hb, Nat.add_assoc]
  rw [State.fetchWord, hpc, toNat_readWord, hnext]
  exact congrArg₂ (fun hi lo : Byte => hi.toNat * 256 + lo.toNat) (read_register hwf hin hax) (read_register hwf hin hbx)

end Sys2Proof.Claims
end

section
/-! PROOFS. The key and timer instructions (spec R230 to R232, R240 to R242). -/

namespace Sys2Proof.Claims

open Sys2Proof Sys2Proof.Machine

/-! ### Keys -/

theorem exec_skp_key {s : State} {x : Reg} (h : val s x ≤ 15) :
    exec (.skp x) s = .next (s.skipIf (s.keyDown (val s x))) :=
  s.withKeyIndex_key x (fun k => .next (s.skipIf (s.keyDown k))) h

theorem exec_sknp_key {s : State} {x : Reg} (h : val s x ≤ 15) :
    exec (.sknp x) s = .next (s.skipIf (!s.keyDown (val s x))) :=
  s.withKeyIndex_key x (fun k => .next (s.skipIf (!s.keyDown k))) h

/-- Settles O48: with a key number the two are skips, and else the fault. -/
theorem keySkips : Obligations.KeySkips := by
  intro s x
  refine ⟨fun hkey => ⟨?_, ?_⟩, fun hnot => ?_⟩
  · exact exec_eq_of_skipIf (exec_skp_key hkey) Iff.rfl
  · exact exec_eq_of_skipIf (exec_sknp_key hkey) (Bool.not_eq_true' _).to_iff
  · exact ⟨(exec_skp_fault s x _).2 ⟨hnot, rfl⟩, (exec_sknp_fault s x _).2 ⟨hnot, rfl⟩⟩

theorem exec_ldVxK_waits {s : State} (x : Reg) (h : ∀ i < 16, s.key.getLsbD i = false) :
    exec (.ldVxK x) s = .next s := by
  change execLdVxK x s = _
  rw [execLdVxK, s.leastKey_eq_none.2 h]

theorem exec_ldVxK_takes {s : State} (x : Reg) {k : Nat} (hk : k < 16) (hdown : s.key.getLsbD k = true)
    (hleast : ∀ i < k, s.key.getLsbD i = false) :
    exec (.ldVxK x) s = .next (s.writeV x (BitVec.ofNat 8 k)).advance := by
  change execLdVxK x s = _
  rw [execLdVxK, (s.leastKey_eq_some k).2 ⟨hk, hdown, hleast⟩]

/-- Settles O49: the least key down decides between waiting and the write of Vx. -/
theorem waitForKeyTakesTheLeast : Obligations.WaitForKeyTakesTheLeast := by
  intro s x
  refine ⟨fun hnone => ⟨exec_ldVxK_waits x hnone, fun hpc hi => ?_⟩, fun k hk hdown hleast => ?_⟩
  · have hlatched : ∀ i < 16, (s.latchOpcode s.fetchWord).key.getLsbD i = false := hnone
    rw [step_instr (s.canFetch_iff.2 hpc) hi, exec_ldVxK_waits x hlatched, wordAtPc_eq_fetchWord, ticked_eq]
    rfl
  · refine setsRegs_of_writeV_advance (exec_ldVxK_takes x hk hdown hleast) ?_
    rw [BitVec.toNat_ofNat]
    omega

/-! ### Timers -/

/-- The step that reads the delay timer: Vx receives the value before the tick (R240). -/
theorem step_ldVxDt_val {s u : State} {x : Reg} (h : step s = .next u) (hx : fetches s (.ldVxDt x)) :
    val u x = s.delayTimer.toNat := by
  obtain ⟨t, ht, rfl⟩ := (step_eq_next_iff_executePhase s u).1 h
  obtain ⟨i, hi, hexec⟩ := executePhase_eq_next ht
  obtain rfl := fetches_unique hx hi
  cases hexec
  exact congrArg BitVec.toNat (State.readV_writeV_same _ x s.delayTimer)

/-- Settles O50: each instruction is one write and the move to the next instruction, closed by the tick. -/
theorem timerReadAndWrites : Obligations.TimerReadAndWrites := by
  intro s x
  refine ⟨setsRegs_of_writeV_advance (b := s.delayTimer) rfl rfl, rfl, rfl, fun u hu =>
    ⟨fun hx => ⟨step_ldVxDt_val hu hx, ?_⟩, step_delayTimer_set hu, step_soundTimer_set hu⟩⟩
  exact step_delayTimer_run hu fun x' hx' => nomatch fetches_unique hx hx'

end Sys2Proof.Claims
end

section
/-! PROOFS. The closed form of a draw (spec R211 to R214). The two loops of the draw are one fold over the sprite's set
pixels, each of which inverts its own cell; no two of them share a cell, so the order does not matter. -/

namespace Sys2Proof.Claims

open Sys2Proof Sys2Proof.Machine

/-! ### Inverting a list of cells -/

/-- Inverts cell `i`, and collides when it was set: what a set pixel does (R211). -/
def invertCell (p : Canvas) (i : Nat) : Canvas := ⟨flipCell p.gfx i, p.collision || cellAt p.gfx i⟩

theorem cellAt_invertCell (p : Canvas) {i j : Nat} (hi : i < 2048) (hj : j < 2048) :
    cellAt (invertCell p i).gfx j = (cellAt p.gfx j ^^ decide (i = j)) := cellAt_flipCell p.gfx i j hi hj

/-- Inverting distinct cells one after the other inverts exactly those. -/
theorem cellAt_invertCells {j : Nat} (hj : j < 2048) : ∀ (cells : List Nat) (p : Canvas), cells.Nodup →
    (∀ i ∈ cells, i < 2048) → cellAt (cells.foldl invertCell p).gfx j = (cellAt p.gfx j ^^ decide (j ∈ cells))
  | [], p, _, _ => by simp
  | i :: cells, p, hnodup, hlt => by
    obtain ⟨hi, hnodup'⟩ := List.nodup_cons.1 hnodup
    obtain ⟨hilt, hlt'⟩ := List.forall_mem_cons.1 hlt
    rw [List.foldl_cons, cellAt_invertCells hj cells _ hnodup' hlt', cellAt_invertCell p hilt hj]
    by_cases hij : i = j
    · subst hij
      simp [hi]
    · simp [hij, Ne.symm hij]

/-- Inverting distinct cells collides when one of them was set before. -/
theorem collision_invertCells : ∀ (cells : List Nat) (p : Canvas), cells.Nodup → (∀ i ∈ cells, i < 2048) →
    ((cells.foldl invertCell p).collision = true ↔ p.collision = true ∨ ∃ i ∈ cells, cellAt p.gfx i = true)
  | [], p, _, _ => by simp
  | i :: cells, p, hnodup, hlt => by
    obtain ⟨hi, hnodup'⟩ := List.nodup_cons.1 hnodup
    obtain ⟨hilt, hlt'⟩ := List.forall_mem_cons.1 hlt
    have hrest : (∃ j ∈ cells, cellAt (invertCell p i).gfx j = true) ↔ ∃ j ∈ cells, cellAt p.gfx j = true := by
      refine exists_congr fun j => and_congr_right fun hj => ?_
      have hij : i ≠ j := fun h => hi (h ▸ hj)
      rw [cellAt_invertCell p hilt (hlt' j hj), decide_eq_false hij, Bool.xor_false]
    rw [List.foldl_cons, collision_invertCells cells _ hnodup' hlt', hrest, List.exists_mem_cons_iff, ← or_assoc]
    exact or_congr_left (Bool.or_eq_true _ _).to_iff

/-! ### The pixels of a sprite -/

/-- The set pixels of the sprite, row by row (the set S of R214). -/
def spritePixels (s : State) (n : Nat) : List (Nat × Nat) :=
  (List.range n ×ˢ List.range 8).filter fun p => spriteBit (s.mem.read (s.dataAddr 0 + p.1)) p.2

/-- The cells under the set pixels. -/
def spriteCells (s : State) (x y : Reg) (n : Nat) : List Nat :=
  (spritePixels s n).map fun p => spriteCell s x y p.1 p.2

theorem mem_spritePixels {s : State} {n r c : Nat} : (r, c) ∈ spritePixels s n ↔ SpritePixel s n r c := by
  simp [spritePixels, SpritePixel, spriteBit, State.dataAddr, and_assoc]

theorem mem_spriteCells {s : State} {x y : Reg} {n j : Nat} : j ∈ spriteCells s x y n ↔ UnderSprite s x y n j := by
  simp [spriteCells, UnderSprite, mem_spritePixels]

/-- Rows below 32 and columns below 64 apart do not wrap onto each other (R214). -/
theorem spriteCell_injective {s : State} {x y : Reg} {r c r' c' : Nat} (hr : r < 16) (hr' : r' < 16)
    (hc : c < 8) (hc' : c' < 8) (h : spriteCell s x y r c = spriteCell s x y r' c') : r = r' ∧ c = c' := by
  unfold spriteCell at h
  omega

theorem nodup_spriteCells {s : State} {x y : Reg} {n : Nat} (hn : n < 16) : (spriteCells s x y n).Nodup := by
  refine List.Nodup.map_on ?_ ((List.nodup_range.product List.nodup_range).filter _)
  rintro ⟨r, c⟩ hp ⟨r', c'⟩ hp' h
  obtain ⟨hr, hc, -⟩ := mem_spritePixels.1 hp
  obtain ⟨hr', hc', -⟩ := mem_spritePixels.1 hp'
  obtain ⟨rfl, rfl⟩ := spriteCell_injective (by omega) (by omega) hc hc' h
  rfl

theorem lt_of_mem_spriteCells {s : State} {x y : Reg} {n j : Nat} (h : j ∈ spriteCells s x y n) : j < 2048 := by
  obtain ⟨r, c, -, rfl⟩ := mem_spriteCells.1 h
  exact cellIndex_lt _ _ r c

/-- The two loops of the draw as one fold. -/
theorem drawn_eq (s : State) (x y : Reg) (n : Nat) :
    s.drawn x y n = (spriteCells s x y n).foldl invertCell ⟨s.gfx, false⟩ := by
  rw [spriteCells, spritePixels, List.foldl_map, List.foldl_filter]
  change _ = List.foldl _ _ (List.product _ _)
  simp only [List.product, List.foldl_flatMap, List.foldl_map]
  rfl

/-! ### The closed form -/

theorem cellAt_drawn {s : State} {x y : Reg} {n j : Nat} (hn : n < 16) (hj : j < 2048) :
    cellAt (s.drawn x y n).gfx j = (cellAt s.gfx j ^^ decide (j ∈ spriteCells s x y n)) := by
  rw [drawn_eq]
  exact cellAt_invertCells hj _ _ (nodup_spriteCells hn) fun i => lt_of_mem_spriteCells

theorem collision_drawn {s : State} {x y : Reg} {n : Nat} (hn : n < 16) :
    (s.drawn x y n).collision = true ↔ ∃ j < 2048, UnderSprite s x y n j ∧ cellAt s.gfx j = true := by
  rw [drawn_eq, collision_invertCells _ _ (nodup_spriteCells hn) fun i => lt_of_mem_spriteCells]
  refine ⟨fun h => ?_, fun ⟨j, _, hunder, hset⟩ => .inr ⟨j, mem_spriteCells.2 hunder, hset⟩⟩
  obtain hfalse | ⟨j, hj, hset⟩ := h
  · cases hfalse
  · exact ⟨j, lt_of_mem_spriteCells hj, mem_spriteCells.1 hj, hset⟩

theorem exec_drw_inside {s : State} (x y : Reg) {n : Nat} (h : 0 < n → s.I.toNat + n - 1 ≤ 0xFFF) :
    exec (.drw x y n) s =
      .next ({ s with gfx := (s.drawn x y n).gfx, drawFlag := true }.writeFlag (s.drawn x y n).collision).advance :=
  s.withAccess_inside n _ fun hn => by have := h hn; omega

/-- VF after a flag write (R22). -/
theorem val_writeFlag_advance_VF (s : State) (f : Bool) : val (s.writeFlag f).advance VF = if f then 1 else 0 := by
  rw [val, State.readV_advance, State.readV_writeFlag, if_pos rfl, flagByte_toNat]

/-- Settles O46: the set pixels lie in fewer than 32 rows and 64 columns, so the draw inverts distinct cells. -/
theorem drawInvertsTheCellsUnderTheSprite : Obligations.DrawInvertsTheCellsUnderTheSprite := by
  intro s x y n hn hin
  refine ⟨fun r c r' c' hp hp' h => ?_, _, exec_drw_inside x y hin, fun j hj => ⟨fun hunder => ?_, fun hnot => ?_⟩,
    fun hset => ?_, fun hclear => ?_, fun j hj => ?_, rfl⟩
  · obtain ⟨hr, hc, -⟩ := hp
    obtain ⟨hr', hc', -⟩ := hp'
    exact spriteCell_injective (by omega) (by omega) hc hc' h
  · refine (cellAt_drawn hn hj).trans ?_
    rw [decide_eq_true (mem_spriteCells.2 hunder), Bool.xor_true]
  · refine (cellAt_drawn hn hj).trans ?_
    rw [decide_eq_false (mt mem_spriteCells.1 hnot), Bool.xor_false]
  · rw [val_writeFlag_advance_VF, if_pos ((collision_drawn hn).2 hset)]
  · rw [val_writeFlag_advance_VF, if_neg (mt (collision_drawn hn).1 hclear)]
  · rw [State.readV_advance, State.readV_writeFlag, if_neg hj]
    rfl

/-- Settles O47: the second draw inverts the same cells back, and finds set what the first, without a collision, set. -/
theorem drawingTwiceRestoresTheScreen : Obligations.DrawingTwiceRestoresTheScreen := by
  intro s t x y n hn h
  have hin : 0 < n → s.I.toNat + n - 1 ≤ 0xFFF := fun hpos => by
    have := (exec_drw_next h).1 hpos
    omega
  obtain ⟨-, t', ht', hcells, hset, -, -, hframe⟩ := drawInvertsTheCellsUnderTheSprite s x y n hn hin
  obtain rfl : t' = t := Host.Outcome.next.inj (ht'.symm.trans h)
  -- the second draw is over the same sprite at the same place
  have hagain : { t' with V := s.V } = { s with gfx := t'.gfx, drawFlag := true, pc := s.pc + 2 } := by rw [hframe]
  rw [hagain]
  obtain ⟨-, u, hu, hcells', hset', -, -, -⟩ :=
    drawInvertsTheCellsUnderTheSprite { s with gfx := t'.gfx, drawFlag := true, pc := s.pc + 2 } x y n hn hin
  refine ⟨u, hu, gfx_ext _ _ fun j hj => ?_, fun ⟨r, c, hpixel⟩ hclear => hset' ?_⟩
  · by_cases hunder : UnderSprite s x y n j
    · rw [(hcells' j hj).1 hunder, (hcells j hj).1 hunder, Bool.not_not]
    · rw [(hcells' j hj).2 hunder, (hcells j hj).2 hunder]
  · have hunder : UnderSprite s x y n (spriteCell s x y r c) := ⟨r, c, hpixel, rfl⟩
    have hlt : spriteCell s x y r c < 2048 := lt_of_mem_spriteCells (mem_spriteCells.2 hunder)
    have hwas : cellAt s.gfx (spriteCell s x y r c) = false := by
      by_contra hne
      rw [Bool.not_eq_false] at hne
      exact absurd (hclear.symm.trans (hset ⟨_, hlt, hunder, hne⟩)) (by decide)
    exact ⟨_, hlt, hunder, by rw [(hcells _ hlt).1 hunder, hwas, Bool.not_false]⟩

end Sys2Proof.Claims
end

section
/-! PROOFS. The host interface (spec R34, R35, R131, R277, R279, R290, R291, R296). -/

namespace Sys2Proof.Claims

open Sys2Proof Sys2Proof.Machine

theorem val_reset (j : Reg) : val State.reset j = 0 := by
  revert j
  decide

theorem stack_reset (k : Fin 16) : State.reset.stack.get k = 0 := by
  revert k
  decide

/-- Settles O51: the reset machine evaluated element by element; the reset reads only the input fields it keeps. -/
theorem initializeResetsEverything : Obligations.InitializeResetsEverything := by
  intro s
  refine ⟨s.initialized, rfl, fun a _ => rfl, fun a ha _ => List.getD_eq_default _ _ ha, val_reset, stack_reset,
    fun k _ => BitVec.getLsbD_zero, fun j _ => cellAt_clearGfx j, rfl, rfl, rfl, rfl, rfl, rfl, rfl, rfl⟩

/-- Settles O52: an image within the limit is a block written at 0x200. -/
theorem loadProgramCopiesTheImage : Obligations.LoadProgramCopiesTheImage := by
  intro s name bytes
  refine ⟨fun hlen => ?_, fun hlen => ?_⟩
  · have hload : s.loadProgram name bytes = .next { s with mem := s.mem.writeBytes 0x200 bytes } :=
      if_neg (Nat.not_lt.2 hlen)
    refine ⟨_, congrArg (replyOf s) hload, fun hwf i hi => ?_, fun a ha => ?_, rfl⟩
    · exact Memory.read_writeBytes_inside bytes s.mem 0x200 i hwf (by omega) hi
    · exact Memory.read_writeBytes_outside bytes s.mem 0x200 a ha
  · exact congrArg (replyOf s) (if_pos hlen)

theorem getLsbD_setKey (key : BitVec 16) (index : Nat) (pressed : Bool) {k : Nat} (hk : k < 16) :
    (if pressed then key ||| BitVec.twoPow 16 index else key &&& ~~~(BitVec.twoPow 16 index)).getLsbD k =
      if k = index then pressed else key.getLsbD k := by
  cases pressed <;> by_cases h : index = k <;> simp [h, hk, eq_comm]

/-- Settles O53: bit `index` of the latch is the one that changes. -/
theorem setKeySetsOneKey : Obligations.SetKeySetsOneKey := by
  intro s index pressed
  refine ⟨fun hindex => ?_, fun hindex => ?_⟩
  · exact ⟨_, congrArg (replyOf s) (if_pos hindex), fun k hk => getLsbD_setKey s.key index pressed hk, rfl⟩
  · exact congrArg (replyOf s) (if_neg (Nat.not_lt.2 hindex))

/-- Settles O55: by the definition of the operation. -/
theorem clearDrawFlagClearsIt : Obligations.ClearDrawFlagClearsIt := by
  intro s
  rfl

/-- Settles O56: a step is never refused. -/
theorem hostStepReturnsOkOrFault : Obligations.HostStepReturnsOkOrFault := by
  intro s rnd
  refine (step_next_or_fault (s.present rnd)).imp ?_ ?_
  · rintro ⟨t, ht⟩
    exact ⟨t, ht, congrArg (replyOfStep (s.present rnd)) ht⟩
  · rintro ⟨f, hf⟩
    exact ⟨f, hf, congrArg (replyOfStep (s.present rnd)) hf⟩

/-- Settles O57: the nine operations with no machine, one by one. -/
theorem nothingBeforeInitialize : Obligations.NothingBeforeInitialize := by
  refine ⟨rfl, fun op hop => ?_⟩
  cases op with
  | initializeMachine => exact absurd rfl hop
  | _ => rfl

end Sys2Proof.Claims
end
